-- ==== Sys2Proof/Word.lean ====
section
/-! DEFINITION. Sys2Proof/Word.lean: the two sizes of data the engine has, one byte and one line level (00_scope.md R10). -/

namespace Sys2Proof

/-- One byte of the frame buffer, of the stream, or of the command port; bit 7 is the most significant (R10). -/
abbrev Byte := BitVec 8

/-- The electrical level of a line: `true` is 1 (high), `false` is 0 (low) (R28). -/
abbrev Level := Bool

end Sys2Proof
end

