-- ==== Sys2Proof/Config.lean ====
section
/-! DEFINITION. Sys2Proof/Config.lean: what is fixed for the lifetime of one engine and its panel (00_scope.md R6, R7, R9), and the
free values: constants with no body for what the spec leaves unspecified (93_implementation_defined.md U1, U3, U4, U5). -/

namespace Sys2Proof

/-! ## Fixed constants of the panel geometry (R6) -/

/-- `BYTES_PER_PANEL_ROW` (R6). -/
def bytesPerPanelRow : Nat := 4

/-- `ROWS_PER_PANEL` (R6). -/
def rowsPerPanel : Nat := 16

/-- `N_PHASES` (R6). -/
def nPhases : Nat := 4

/-! ## Parameters of one implementation (R9) -/

/-- `STREAM_ORDER` (R9, R90, R91). -/
inductive StreamOrder
  | grouped
  | interleaved
  deriving DecidableEq, Repr

/-- `TRANSPORT` (R9, R164, R165). -/
inductive Transport
  | bitbang
  | hwserial
  deriving DecidableEq, Repr

/-- `SER_BIT_ORDER`: the spec admits the one value `MSB_FIRST` (R9). -/
inductive SerBitOrder
  | msbFirst
  deriving DecidableEq, Repr

/-- `CLOCKS_PER_BYTE`: the spec admits the one value 8 (R9, R93). -/
inductive ClocksPerByte
  | eight
  deriving DecidableEq, Repr

/-- The number of clock pulses of a byte (R93). -/
def ClocksPerByte.count : ClocksPerByte → Nat
  | .eight => 8

/-- A map on the numbers 0..3, written as its four values: `ROWSEL_CODE` (R88) and `PANEL_ROWDEC` (R184). -/
structure Codes where
  at0 : BitVec 2
  at1 : BitVec 2
  at2 : BitVec 2
  at3 : BitVec 2
  deriving DecidableEq, Repr

/-- The parameters of R9 that are not the topology. A model carries them as configuration and holds for all of them. -/
structure Config where
  /-- `STREAM_ORDER` (R89 to R91). -/
  streamOrder : StreamOrder
  /-- `ROWSEL_CODE` (R88). -/
  rowselCode : Codes
  /-- `TRANSPORT` (R163 to R165). -/
  transport : Transport
  /-- `SER_BIT_ORDER` (R93). -/
  serBitOrder : SerBitOrder
  /-- `CLOCKS_PER_BYTE` (R93). -/
  clocksPerByte : ClocksPerByte
  /-- `SCLK_IDLE` (R93). -/
  sclkIdle : Level
  /-- `POL_OE_ON` (R30). -/
  polOeOn : Level
  /-- `POL_LAT_ACTIVE` (R30). -/
  polLatActive : Level
  /-- `PHASE_RESET` (R21). -/
  phaseReset : BitVec 2
  /-- `T_LATCH_MIN` (R137, R247), in whole microseconds: DESIGN CHOICE, R9 gives a duration and no resolution (log 23). The step relation has no clock: the duty on time-stamped traces uses it. -/
  tLatchMinUs : Nat
  /-- `T_PHASE_TYP` (R248), in whole microseconds: DESIGN CHOICE (log 23). Informative, no rule of the engine uses it. -/
  tPhaseTypUs : Nat
  /-- `AW`, the width of `fb_addr` in bits (R34): the topology fits it when `64 × P ≤ 2^AW` (D21). No step depends on it (log 20). -/
  addressWidth : Nat
  /-- The order the panel's chain is wired in: the panel's own `STREAM_ORDER`, assumed equal to the engine's (R180, R186). -/
  panelOrder : StreamOrder
  /-- `PANEL_ROWDEC` (R184). -/
  panelRowdec : Codes
  /-- `PANEL_LIT_LEVEL` (R185). -/
  panelLitLevel : Level
  deriving DecidableEq, Repr

/-- The smallest `AW` with `64 × P ≤ 2^AW`: its default (R9). -/
def leastAddressWidth (panels : Nat) : Nat := Nat.clog 2 (64 * panels)

/-- The default column of R9's table, with `AW` for one panel (log 2). PRESUMED through the spec: the polarities and `SCLK_IDLE` are its general knowledge (G3). -/
def Config.default : Config where
  streamOrder := .grouped
  rowselCode := ⟨0, 1, 2, 3⟩
  transport := .bitbang
  serBitOrder := .msbFirst
  clocksPerByte := .eight
  sclkIdle := false
  polOeOn := true
  polLatActive := true
  phaseReset := 0
  tLatchMinUs := 10
  tPhaseTypUs := 1000
  addressWidth := 6
  panelOrder := .grouped
  panelRowdec := ⟨1, 2, 3, 0⟩
  panelLitLevel := true

/-- The default column of R9's table for a topology of so many panels. -/
def Config.defaultFor (panels : Nat) : Config := { Config.default with addressWidth := leastAddressWidth panels }

/-! ## Free values: no body, so nothing can be proved of what they are

A free value depends on its arguments only (an era, an index), so two states in the same era have equal ones. DESIGN CHOICE: a State is one
engine with its panel and its buffer, and comparing two states compares two runs of that engine, not two engines (R215, log 25). -/

/-- What a frame-buffer byte nobody has written holds: a free draw for each life of the memory and each index (R236, U3; log 5).
Another engine's buffer draws its own, which the model does not hold (log 25). -/
opaque Config.freeByte : Nat → Nat → Byte

/-- What `SR` holds after the n-th reset, before a `FETCH` writes it (R27, R41, U1; log 3). -/
opaque Config.freeSr : Nat → Byte

/-- What `BITN` holds after the n-th reset, before a `SERBYTE` writes it (R26, R41, U1; log 3). -/
opaque Config.freeBitn : Nat → BitVec 3

/-- What `LVL[line]` holds after the n-th reset when the line is not driven (R41, U5; log 4). The second argument is the
line's index (R94). -/
opaque Config.freeLevel : Nat → Nat → Level

/-- Bit i of the panel's shift-register chain at power-on (R181, U4; log 6). -/
opaque Config.freeChainBit : Nat → Level

/-- Byte i of the panel's output latches at power-on (R181, U4; log 6). -/
opaque Config.freeLatchByte : Nat → Byte

/-- What byte i of the output latches shows to the LEDs when the panel holds no such byte: the chain does not fit the topology
(U11), or there is no such panel (log 21). -/
opaque Config.freeAbsentLatch : Nat → Byte

/-- What the latched bit of panel j, block m, column xl is outside the LEDs R185 numbers, that is for m from 4 up or xl from 32 up
(log 26). -/
opaque Config.freeNoLed : Nat → Nat → Nat → Level

end Sys2Proof
end

