-- ==== Sys2Proof/Syntax.lean ====
section
/-! DEFINITION. Sys2Proof/Syntax.lean: the lines of the pin port and the operations of spec/opcode_table.json, one constructor a row
(30_encoding.md R82, R87, R94, R98, R99). -/

namespace Sys2Proof

/-- The six lines of the hardware binding, in the order of their indices (R94). -/
inductive Line
  | oe
  | a
  | b
  | sclk
  | sdata
  | lat
  deriving DecidableEq, Repr

/-- The operations: three host commands, eight micro-operations, three primitives of the hardware binding (R99). -/
inductive Instr
  /-- `SCAN`: perform one scan phase (R111). -/
  | scan
  /-- `NEXT`: advance the phase (R112). -/
  | next
  /-- `SETPH n`: set the phase (R113). -/
  | setph (n : BitVec 2)
  /-- `OEOFF`: step 1, disable the output (R131). -/
  | oeoff
  /-- `ROWSEL`: step 2, select the row group (R132). -/
  | rowsel
  /-- `FETCH`: step 3, read the next byte of the stream (R133). -/
  | fetch
  /-- `SEND`: step 3, shift the byte out (R135). -/
  | send
  /-- `LATCHHI`: step 4, assert the latch (R136). -/
  | latchhi
  /-- `HOLD`: step 4, hold it (R137). -/
  | hold
  /-- `LATCHLO`: step 4, deassert it (R138). -/
  | latchlo
  /-- `OEON`: step 5, re-enable the output (R139). -/
  | oeon
  /-- `PINDIR line`: set a line's direction to output (R161). -/
  | pindir (line : Line)
  /-- `PINSET line, level`: set a line's level (R162). -/
  | pinset (line : Line) (level : Level)
  /-- `SERBYTE b`: send one byte on the serial line (R163). -/
  | serbyte (b : Byte)
  deriving DecidableEq, Repr

/-- The pseudo-instructions (R98). -/
inductive Pseudo
  | scanadv
  | frame
  | home
  deriving DecidableEq, Repr

end Sys2Proof
end

