-- ==== Sys2Proof/WellFormed.lean ====
section
/-! DEFINITION. Sys2Proof/WellFormed.lean: the decidable checks: which encoded words stand for an operation (30_encoding.md R82, R84, R87,
R94), which instructions are well formed, which configurations and topologies are valid (00_scope.md R7, R9). -/

namespace Sys2Proof

/-- An encoded operation in the three formats of the opcode table (R99). A primitive has no opcode bits (its mask is 0), so the
word says which primitive's operand fields it holds. -/
inductive Encoded
  /-- Format `CMD`: the 8-bit host command word (R81). -/
  | cmd (w : BitVec 8)
  /-- Format `UOP`: the 4-bit position code (R87). -/
  | uop (code : BitVec 4)
  /-- Format `PRIM`, operand fields `lll` of `PINDIR` (R161). -/
  | pindir (fields : BitVec 3)
  /-- Format `PRIM`, operand fields `lllv` of `PINSET` (R162). -/
  | pinset (fields : BitVec 4)
  /-- Format `PRIM`, operand field `bbbbbbbb` of `SERBYTE` (R163). -/
  | serbyte (fields : BitVec 8)
  deriving DecidableEq, Repr

/-- A command word is legal when it matches a row of R82's table: `(w AND mask) = match`. -/
def cmdWordWf (w : BitVec 8) : Bool :=
  (w &&& 0xFF#8) == 0x10#8 || (w &&& 0xFF#8) == 0x20#8 || (w &&& 0xFC#8) == 0x30#8

/-- A position code names a micro-operation when it is 1..8: 0 is `IDLE`, 9..15 are unreachable (R87). -/
def positionCodeWf (code : BitVec 4) : Bool :=
  1 ≤ code.toNat && code.toNat ≤ 8

/-- A line index is 0..5 (R94, R161, R162). -/
def lineIndexWf (l : BitVec 3) : Bool :=
  l.toNat < 6

/-- A well-formed encoded operation: the word of its format stands for an operation. -/
def Encoded.wf : Encoded → Bool
  | .cmd w => cmdWordWf w
  | .uop code => positionCodeWf code
  | .pindir fields => lineIndexWf fields
  | .pinset fields => lineIndexWf (fields.extractLsb' 1 3)
  | .serbyte _ => true

/-- The index of a line (R94). -/
def Line.index : Line → BitVec 3
  | .oe => 0
  | .a => 1
  | .b => 2
  | .sclk => 3
  | .sdata => 4
  | .lat => 5

/-- A well-formed instruction. The operands are typed, so the checks say what R83, R94 and R163 say of their ranges and hold of
every term: an ill-formed operand exists only as a word (`Encoded.wf`). -/
def Instr.wf : Instr → Bool
  | .setph n => n.toNat < 4
  | .pindir line => lineIndexWf line.index
  | .pinset line _ => lineIndexWf line.index
  | .scan | .next | .oeoff | .rowsel | .fetch | .send | .latchhi | .hold | .latchlo | .oeon | .serbyte _ => true

/-- A map on 0..3 is a bijection when its four values differ (R88, R184). -/
def Codes.bijective (c : Codes) : Bool :=
  [c.at0, c.at1, c.at2, c.at3].Nodup

/-- A valid configuration: both code maps are bijections (R9), and the latch is held 10 microseconds at least (R137, R247, log 19). -/
def Config.wf (c : Config) : Bool :=
  c.rowselCode.bijective && c.panelRowdec.bijective && 10 ≤ c.tLatchMinUs

/-- A topology is valid when both dimensions are at least 1 (R7, R232). -/
def topologyValid (w h : Nat) : Bool :=
  1 ≤ w && 1 ≤ h

end Sys2Proof
end

