-- ==== Sys2Proof/Decode.lean ====
section
/-! DEFINITION. Sys2Proof/Decode.lean: decoding of the three formats, total and rejecting by name (30_encoding.md R82 to R87, R99,
R100), and the encoder written from the same tables. -/

namespace Sys2Proof

/-- Why a word stands for no operation. -/
inductive DecodeError
  /-- A command word that matches no row of R82 (R84). -/
  | illegalCommand
  /-- Position code 0: `IDLE` executes no micro-operation (R87). -/
  | idlePosition
  /-- Position codes 9..15 (R87). -/
  | noSuchPosition
  /-- A line index above 5 (R94). -/
  | noSuchLine
  deriving DecidableEq, Repr

/-- The command decoder, in the order of R100 (its `FAILED` test is the issue's, `issueWord`). -/
def decodeCommand (w : BitVec 8) : Except DecodeError Instr :=
  if w = 0x10#8 then .ok .scan
  else if w = 0x20#8 then .ok .next
  else if w &&& 0xFC#8 = 0x30#8 then .ok (.setph (w.extractLsb' 0 2))
  else .error .illegalCommand

/-- The micro-operation of a position code (R87). -/
def decodePosition (code : BitVec 4) : Except DecodeError Instr :=
  match code.toNat with
  | 0 => .error .idlePosition
  | 1 => .ok .oeoff
  | 2 => .ok .rowsel
  | 3 => .ok .fetch
  | 4 => .ok .send
  | 5 => .ok .latchhi
  | 6 => .ok .hold
  | 7 => .ok .latchlo
  | 8 => .ok .oeon
  | _ => .error .noSuchPosition

/-- The line of an index (R94). -/
def decodeLine (index : BitVec 3) : Except DecodeError Line :=
  match index.toNat with
  | 0 => .ok .oe
  | 1 => .ok .a
  | 2 => .ok .b
  | 3 => .ok .sclk
  | 4 => .ok .sdata
  | 5 => .ok .lat
  | _ => .error .noSuchLine

/-- The decoder, total on every word of every format. -/
def decode : Encoded → Except DecodeError Instr
  | .cmd w => decodeCommand w
  | .uop code => decodePosition code
  | .pindir fields => (decodeLine fields).map .pindir
  | .pinset fields => (decodeLine (fields.extractLsb' 1 3)).map fun line => .pinset line (fields.getLsbD 0)
  | .serbyte fields => .ok (.serbyte fields)

/-- The encoder, from the `match` column of the opcode table and the operand fields of its `encoding` column (R82, R87, R99). -/
def encode : Instr → Encoded
  | .scan => .cmd 0x10#8
  | .next => .cmd 0x20#8
  | .setph n => .cmd (0b001100#6 ++ n)
  | .oeoff => .uop 1#4
  | .rowsel => .uop 2#4
  | .fetch => .uop 3#4
  | .send => .uop 4#4
  | .latchhi => .uop 5#4
  | .hold => .uop 6#4
  | .latchlo => .uop 7#4
  | .oeon => .uop 8#4
  | .pindir line => .pindir line.index
  | .pinset line level => .pinset (line.index ++ BitVec.ofBool level)
  | .serbyte b => .serbyte b

/-- The words of a pseudo-instruction: its expansion as commands (R98). -/
def Pseudo.expand : Pseudo → List Instr
  | .scanadv => [.scan, .next]
  | .frame => [.scan, .next, .scan, .next, .scan, .next, .scan, .next]
  | .home => [.setph 0]

/-- The command word of a command; the other operations have none (R99). -/
def commandWord (i : Instr) : Option (BitVec 8) :=
  match encode i with
  | .cmd w => some w
  | .uop _ | .pindir _ | .pinset _ | .serbyte _ => none

/-- The encoded operation a table word stands for. Every row of the table has at most 8 bits, so a word is one byte: a byte whose
high half is 0 holds a 4-bit position code (no command has `OPC` 0000, R84), any other byte is a command word. The three primitives
are never decoded and have no opcode bits (R99), so no byte stands for one (log 14). -/
def tableWord (nbits w : Nat) : Encoded :=
  let byte := BitVec.ofNat 8 (w % 2 ^ nbits)
  if byte.extractLsb' 4 4 = 0#4 then .uop (byte.extractLsb' 0 4) else .cmd byte

/-- The instruction the decoder reads from a table word (log 14). -/
def decodeTableWord (nbits w : Nat) : Option Instr :=
  match decode (tableWord nbits w) with
  | .ok i => some i
  | .error _ => none

end Sys2Proof
end

