-- ==== Sys2Proof/Machine/State.lean ====
section
/-! DEFINITION. Sys2Proof/Machine/State.lean: the state of the engine and of the panel it drives (10_state.md R20 to R41,
45_panel_reference.md R181), the inputs the outside holds ready, the ways a step can stop, and the state right after reset. Plain data. -/

namespace Sys2Proof.Machine

/-- The sequencer position `SEQ`: the micro-operation that executes next, or `IDLE` (R24, R87). -/
inductive Position
  | idle
  | oeoff
  | rowsel
  | fetch
  | send
  | latchhi
  | hold
  | latchlo
  | oeon
  deriving DecidableEq, Repr

/-- The direction of a line (R29). -/
inductive Dir
  /-- `IN`: the line is not driven by the engine. -/
  | inward
  /-- `OUT`: the engine drives `LVL[line]` onto the line. -/
  | out
  deriving DecidableEq, Repr

/-- One value for each of the six lines (R28, R29). -/
structure Lines (α : Type) where
  oe : α
  a : α
  b : α
  sclk : α
  sdata : α
  lat : α
  deriving DecidableEq, Repr

/-- The response codes (R86). Code 11 is never produced and has no constructor. -/
inductive Response
  | ok
  | errIllegal
  | errFailed
  deriving DecidableEq, Repr

/-- The byte-level events (R40, R95). -/
inductive ByteEvent
  | oeOff
  | oeOn
  | sel (code : BitVec 2)
  | tx (b : Byte)
  | latAssert
  | hold
  | latDeassert
  deriving DecidableEq, Repr

/-- The pin-level events (R40, R96). -/
inductive PinEvent
  | dirset (line : Line)
  | set (line : Line) (level : Level)
  | hold
  deriving DecidableEq, Repr

/-- The frame buffer as the bytes somebody has written, by rising index. An index with no entry holds no written value, so no entry
can equal what an unlisted index reads as (20_memory.md R50; log 5). -/
abbrev Memory := List Host.Cell

/-- The canonical form: indices strictly rising. -/
abbrev Memory.wf (m : Memory) : Prop :=
  m.Pairwise fun x y => x.1 < y.1

/-- The panel: the shift-register chain, the bit shifted in most recently first, and the output latches (R181). -/
structure Panel where
  chain : List Level
  latched : List Byte
  deriving DecidableEq, Repr

/-- What the outside, other than the command port, does next (R36, R62, R230, R233; log 1). -/
inductive EnvAction
  /-- Leave the engine to run: one micro-operation, or the issue of one command, or nothing if it has nothing to do. -/
  | run
  /-- The host writes byte `v` to frame-buffer index `i` (R62). -/
  | write (i : Nat) (v : Byte)
  /-- `rst` with `cfg_w`, `cfg_h` on the configuration inputs: the reset sequence (R230, R231). It also ends a held `rst`. -/
  | reset (cfgW cfgH : Nat)
  /-- `rst` asserted and held: teardown (R233). -/
  | holdReset
  deriving DecidableEq, Repr

/-- Why the machine stops with a fault. -/
inductive Fault
  /-- A frame-buffer read at an index outside `0 .. FB_LEN - 1`, which does not exist (R50). Raised by `FETCH` only, in states no run
  from reset reaches (R66). Safe: the model stops where the hardware has no such read. -/
  | noSuchByte (index : Nat)
  deriving DecidableEq, Repr

/-- Why the model has no meaning for an instruction. -/
inductive Refusal
  /-- An arm of `exec` that has no meaning yet; none is left. Safe: the model stops. -/
  | notModelled (mnemonic : String)
  deriving DecidableEq, Repr

/-- The state of the engine (R20), its panel (R181), its inputs, and the model's own bookkeeping (INVENTORY.md, State). -/
@[ext]
structure State where
  /-- The parameters of the implementation and of its panel (R9, R39); no step changes them. -/
  cfg : Config
  /-- W, sampled from `cfg_w` at reset (R7, R231). -/
  panelsWide : Nat
  /-- H, sampled from `cfg_h` at reset (R7, R231). -/
  panelsHigh : Nat
  /-- `PHASE` (R21). -/
  phase : BitVec 2
  /-- `FAILED` (R22). -/
  failed : Bool
  /-- `SEQ` (R24). -/
  seq : Position
  /-- `K` (R25). -/
  k : Nat
  /-- `BITN` (R26). -/
  bitn : BitVec 3
  /-- `SR` (R27). -/
  sr : Byte
  /-- `LVL[line]` (R28). -/
  lvl : Lines Level
  /-- `DIR[line]` (R29). -/
  dir : Lines Dir
  /-- The frame buffer (R50). -/
  mem : Memory
  /-- The panel (R181). -/
  panel : Panel
  /-- `rst` is held asserted (R233). -/
  rst : Bool
  /-- The words the host holds at the command port, the first of them on `cmd[7:0]`; `cmd_valid` is 1 while there is one (R31). -/
  cmds : List (BitVec 8)
  /-- What the rest of the outside does, the next action first. -/
  env : List EnvAction
  /-- The byte-level output trace, oldest first (R40). -/
  byteTrace : List ByteEvent
  /-- The pin-level output trace, oldest first (R40). -/
  pinTrace : List PinEvent
  /-- The responses produced since reset, oldest first (R32). -/
  responses : List Response
  /-- The indices presented at the frame-buffer read port since reset, oldest first (R34). -/
  fbReads : List Nat
  /-- How many resets there have been: the argument of the free values a reset leaves (log 18). -/
  resetEra : Nat
  /-- How many lives of the frame buffer have ended: the argument of the free draw of an unwritten byte (log 18). -/
  memEra : Nat
  deriving DecidableEq, Repr

/-- A panel of `p` chained panels at power-on: its contents are unspecified (R181). -/
def Panel.powerOn (p : Nat) : Panel where
  chain := (List.range (128 * p)).map Config.freeChainBit
  latched := (List.range (16 * p)).map Config.freeLatchByte

/-- The levels loaded by a reset with a valid topology: output off, code 0, clock idle, data 0, latch deasserted (R41, R231). -/
def Lines.resetLevels (c : Config) : Lines Level where
  oe := !c.polOeOn
  a := false
  b := false
  sclk := c.sclkIdle
  sdata := false
  lat := !c.polLatActive

/-- The same value on every line. -/
def Lines.all {α : Type} (v : α) : Lines α where
  oe := v
  a := v
  b := v
  sclk := v
  sdata := v
  lat := v

/-- The six `DIRSET` events of the reset sequence, in its order (R231). -/
def resetPinTrace : List PinEvent :=
  [.dirset .oe, .dirset .a, .dirset .b, .dirset .sclk, .dirset .sdata, .dirset .lat]

/-- The machine right after its first reset with the valid topology `w`, `h`, configuration `c` and a panel that fits (R41). -/
def State.afterReset (c : Config) (w h : Nat) : State where
  cfg := c
  panelsWide := w
  panelsHigh := h
  phase := c.phaseReset
  failed := false
  seq := .idle
  k := 0
  bitn := Config.freeBitn 0
  sr := Config.freeSr 0
  lvl := Lines.resetLevels c
  dir := Lines.all .out
  mem := []
  panel := Panel.powerOn (w * h)
  rst := false
  cmds := []
  env := []
  byteTrace := []
  pinTrace := resetPinTrace
  responses := []
  fbReads := []
  resetEra := 0
  memEra := 0

/-- The machine right after reset: the default configuration and one panel (log 2). -/
def State.reset : State := State.afterReset Config.default 1 1

end Sys2Proof.Machine
end

