-- ==== Sys2Proof/Machine/Bits.lean ====
section
/-! DEFINITION. Sys2Proof/Machine/Bits.lean: bytes as bits on the serial line and back, and the pins as one value a line
(30_encoding.md R93, R94; 45_panel_reference.md R181). -/

namespace Sys2Proof.Machine

/-- The bit numbers of a byte in the order they go on the line (R93). -/
def bitOrder : SerBitOrder → List (BitVec 3)
  | .msbFirst => [7, 6, 5, 4, 3, 2, 1, 0]

/-- Bit `n` of a byte. -/
def bitAt (b : Byte) (n : BitVec 3) : Level :=
  b.getLsbD n.toNat

/-- The bits of a byte in the order they go on the line. -/
def byteBits (order : SerBitOrder) (b : Byte) : List Level :=
  (bitOrder order).map (bitAt b)

/-- The byte of eight bits, the first one its bit 7 (R166, R181). -/
def byteOf (bits : List Level) : Byte :=
  bits.foldl (fun v d => v <<< 1 ||| (BitVec.ofBool d).setWidth 8) 0#8

/-- Bits in time order as bytes, eight a byte; an incomplete last byte is dropped (R181). -/
def bytesOf : List Level → List Byte
  | b7 :: b6 :: b5 :: b4 :: b3 :: b2 :: b1 :: b0 :: rest => byteOf [b7, b6, b5, b4, b3, b2, b1, b0] :: bytesOf rest
  | _ => []

/-- The value of one line. -/
def Lines.get {α : Type} (v : Lines α) : Line → α
  | .oe => v.oe
  | .a => v.a
  | .b => v.b
  | .sclk => v.sclk
  | .sdata => v.sdata
  | .lat => v.lat

/-- One line changed. -/
def Lines.set {α : Type} (v : Lines α) (line : Line) (x : α) : Lines α :=
  match line with
  | .oe => { v with oe := x }
  | .a => { v with a := x }
  | .b => { v with b := x }
  | .sclk => { v with sclk := x }
  | .sdata => { v with sdata := x }
  | .lat => { v with lat := x }

/-- The six lines, in the order of their indices (R94). -/
def allLines : List Line := [.oe, .a, .b, .sclk, .sdata, .lat]

/-- A code map applied to a number 0..3 (R88, R184). -/
def applyCodes (c : Codes) (p : BitVec 2) : BitVec 2 :=
  match p.toNat with
  | 0 => c.at0
  | 1 => c.at1
  | 2 => c.at2
  | _ => c.at3

/-- The code of a response on `rsp[1:0]` (R86). -/
def Response.code : Response → BitVec 2
  | .ok => 0b00
  | .errIllegal => 0b01
  | .errFailed => 0b10

/-- The numeric code of a position (R87). -/
def Position.code : Position → BitVec 4
  | .idle => 0
  | .oeoff => 1
  | .rowsel => 2
  | .fetch => 3
  | .send => 4
  | .latchhi => 5
  | .hold => 6
  | .latchlo => 7
  | .oeon => 8

/-- The position of a numeric code; 9..15 name none (R87). -/
def Position.ofCode (code : BitVec 4) : Option Position :=
  match code.toNat with
  | 0 => some .idle
  | 1 => some .oeoff
  | 2 => some .rowsel
  | 3 => some .fetch
  | 4 => some .send
  | 5 => some .latchhi
  | 6 => some .hold
  | 7 => some .latchlo
  | 8 => some .oeon
  | _ => none

end Sys2Proof.Machine
end

