-- ==== Sys2Proof/Machine/Flags.lean ====
section
/-! DEFINITION. Sys2Proof/Machine/Flags.lean: everything computed from State and never stored: the topology's sizes (00_scope.md R7, R8),
`BUSY`, `cmd_ready`, the status port, the pads and the logical views of the lines (10_state.md R23, R30 to R35). -/

namespace Sys2Proof.Machine

/-- `P = PANELS_TOTAL = W × H` (R7). -/
def State.panels (s : State) : Nat := s.panelsWide * s.panelsHigh

/-- `ROWSIZE` (R8). -/
def State.rowSize (s : State) : Nat := 4 * s.panels

/-- `FB_LEN` (R8, R51). R8 gives the sizes for a valid topology. With an invalid one the model computes the same product, so the buffer
has no index and a host write is dropped: DESIGN CHOICE (log 22). -/
def State.fbLen (s : State) : Nat := 64 * s.panels

/-- `STREAM_LEN` (R8). -/
def State.streamLen (s : State) : Nat := 16 * s.panels

/-- The topology fits the address port: `64 × P ≤ 2^AW` (R7, D21). -/
def State.addressFits (s : State) : Bool := s.fbLen ≤ 2 ^ s.cfg.addressWidth

/-- `BUSY = (SEQ ≠ IDLE)` (R23). -/
def State.busy (s : State) : Bool := s.seq != .idle

/-- `cmd_ready`: `SEQ = IDLE` (R31), and no command is accepted while `rst` is held (R233). -/
def State.cmdReady (s : State) : Bool := !s.busy && !s.rst

/-- `cmd_valid`: the host holds a word at the command port (R31). -/
def State.cmdValid (s : State) : Bool := !s.cmds.isEmpty

/-- The engine drives its lines and can run: not failed and not under reset (R22, R233). -/
def State.working (s : State) : Bool := !s.failed && !s.rst

/-- The status port (R33). -/
structure StatusPort where
  phase : BitVec 2
  busy : Bool
  failed : Bool
  deriving DecidableEq, Repr

/-- `st_phase`, `st_busy`, `st_failed` (R33). -/
def State.status (s : State) : StatusPort := ⟨s.phase, s.busy, s.failed⟩

/-- What a pad carries: the level, or nothing when the line is not driven (R35). -/
def State.pad (s : State) (line : Line) : Option Level :=
  if s.dir.get line = .out then some (s.lvl.get line) else none

/-- `OE_STATE = ON` (R30). -/
def State.oeOn (s : State) : Bool := s.lvl.oe == s.cfg.polOeOn

/-- `LAT_STATE = asserted` (R30). -/
def State.latAsserted (s : State) : Bool := s.lvl.lat == s.cfg.polLatActive

/-- `SCLK` is idle (R30). -/
def State.clockIdle (s : State) : Bool := s.lvl.sclk == s.cfg.sclkIdle

/-- `SEL = {LVL[B], LVL[A]}` (R30). -/
def State.sel (s : State) : BitVec 2 := BitVec.ofBool s.lvl.b ++ BitVec.ofBool s.lvl.a

end Sys2Proof.Machine
end

