-- ==== Sys2Proof/Machine/Operands.lean ====
section
/-! DEFINITION. Sys2Proof/Machine/Operands.lean: what the micro-operations take their operands from: the stream, that is which
frame-buffer byte is the k-th byte of a scan (20_memory.md R53, 30_encoding.md R89 to R92), and the row-select code (R88). -/

namespace Sys2Proof.Machine

/-- The region `m(s)` of slot s (R90, R91). -/
def streamRegion : StreamOrder → Nat → Nat
  | .grouped, s => 3 - s / 4
  | .interleaved, s => 3 - s % 4

/-- The byte column `c(s)` of slot s (R90, R91). -/
def streamColumn : StreamOrder → Nat → Nat
  | .grouped, s => s % 4
  | .interleaved, s => s / 4

/-- The slot of a region and a byte column: the inverse of `m` and `c` (R185). -/
def streamSlot : StreamOrder → Nat → Nat → Nat
  | .grouped, m, c => 4 * (3 - m) + c
  | .interleaved, m, c => 4 * c + (3 - m)

/-- `base(p)` (R53). -/
def phaseBase (panels : Nat) (p : BitVec 2) : Nat := 4 * panels * p.toNat

/-- `src(p, k)`, the frame-buffer index of the k-th byte of a scan at phase p (R89). -/
def src (order : StreamOrder) (panels : Nat) (p : BitVec 2) (k : Nat) : Nat :=
  phaseBase panels p + 16 * panels * streamRegion order (k % 16) + 4 * (k / 16) + streamColumn order (k % 16)

/-- The index the next `FETCH` reads (R133). -/
def State.fetchIndex (s : State) : Nat := src s.cfg.streamOrder s.panels s.phase s.k

/-- What the next `FETCH` presents on `fb_addr`: its index on `AW` bits (R34). -/
def State.fbAddr (s : State) : BitVec s.cfg.addressWidth := BitVec.ofNat s.cfg.addressWidth s.fetchIndex

/-- The row-select code of the current phase (R88, R132). -/
def State.rowselCode (s : State) : BitVec 2 := applyCodes s.cfg.rowselCode s.phase

end Sys2Proof.Machine
end

