-- ==== Sys2Proof/Machine/Panel.lean ====
section
/-! DEFINITION. Sys2Proof/Machine/Panel.lean: the reference model of the panel: how it reacts to a level set on a pad, and which LEDs are
lit (45_panel_reference.md R180 to R191). No operation of the engine reads it. -/

namespace Sys2Proof.Machine

/-- `RX`: the bytes in the chain, oldest first, the newest one made of the eight newest bits (R181). Bits beyond the whole bytes, the oldest
ones, are in no byte: DESIGN CHOICE, U11 leaves such a chain out (log 24). -/
def Panel.rx (p : Panel) : List Byte := bytesOf (p.chain.take (8 * (p.chain.length / 8))).reverse

/-- One bit shifted in; the oldest is lost (R182). The chain keeps its own length (R191, log 7). -/
def Panel.shift (p : Panel) (d : Level) : Panel := { p with chain := (d :: p.chain).take p.chain.length }

/-- All latches take the chain's contents in one step (R183). -/
def Panel.latch (p : Panel) : Panel := { p with latched := p.rx }

/-- What the panel does when a line that carried `before` is set to `level`: it shifts on the leading edge of the clock (R182) and
latches on the assertion of the latch line (R183). `before` is what the pad carried, `none` when it was not driven: an undriven
pad carries no edge (R35, log 8). -/
def Panel.react (p : Panel) (c : Config) (data : Level) (line : Line) (before : Option Level) (level : Level) : Panel :=
  match line with
  | .sclk => if before = some c.sclkIdle ∧ level = !c.sclkIdle then p.shift data else p
  | .lat => if before = some (!c.polLatActive) ∧ level = c.polLatActive then p.latch else p
  | .oe | .a | .b | .sdata => p

/-- The row group the panel lights (R184). -/
def State.litGroup (s : State) : BitVec 2 := applyCodes s.cfg.panelRowdec s.sel

/-- How many bytes were received after byte n of panel j (R181, R191): the panels 0 .. P-1 hold the last 16P bytes received, those beyond P
the bytes before them. That panel P is the next one along, then P+1, is a DESIGN CHOICE: R191 gives them no numbers (log 24). -/
def latchDepth (panels j n : Nat) : Nat :=
  if j < panels then 16 * (panels - 1 - j) + (15 - n) else 16 * j + (15 - n)

/-- Byte n of panel j in the latches (R185). A byte the panel does not hold is a free value: DESIGN CHOICE, the spec gives no LED there
(R191, U11, log 21). -/
def State.latchByte (s : State) (j n : Nat) : Byte :=
  s.panel.latched.reverse.getD (latchDepth s.panels j n) (Config.freeAbsentLatch (16 * j + n))

/-- The latched bit that drives column `xl` of the 4-row block `m` of panel j (R185, R186). DESIGN CHOICE: R185 gives LEDs to the blocks 0
to 3 and the columns 0 to 31 only, and beyond them the bit is a free value (log 26). -/
def State.latchedBit (s : State) (j m xl : Nat) : Level :=
  if m < 4 ∧ xl < 32 then (s.latchByte j (streamSlot s.cfg.panelOrder m (xl / 8))).getLsbD (7 - xl % 8)
  else Config.freeNoLed j m xl

/-- The LED of panel j, geometric row r, column xl is lit (R185). DESIGN CHOICE: for r from 16 up or xl from 32 up, where R185 gives no LED,
the latched bit is a free value (log 26), and what stands at panel numbers from P up is said in logs 21 and 24. -/
def State.ledLit (s : State) (j r xl : Nat) : Bool :=
  s.oeOn && r % 4 == s.litGroup.toNat && s.latchedBit j (r / 4) xl == s.cfg.panelLitLevel

/-- Where panel j of the stream lies in the tiled display: its panel column and panel row (R186). -/
def panelPlace (panelsWide j : Nat) : Nat × Nat := (j % panelsWide, j / panelsWide)

/-- The panel decodes the engine's code of every phase to the group of the logical rows the phase streams (R188). -/
def cyclicMapping (c : Config) : Bool :=
  [0#2, 1#2, 2#2, 3#2].all fun p => applyCodes c.panelRowdec (applyCodes c.rowselCode p) == p + 1

end Sys2Proof.Machine
end

