-- ==== Sys2Proof/Machine/Ops.lean ====
section
/-! DEFINITION. Sys2Proof/Machine/Ops.lean: the named operations over memory, registers, pins, traces and ports, the refusal of a command,
and the reset sequence (20_memory.md R60, R62; 42_pin_serial_primitives.md; 60_exceptions.md; 70_reset_and_hazards.md). -/

namespace Sys2Proof.Machine

/-! ## The frame buffer -/

/-- What an index with no entry reads as: no written value (R236). -/
def Memory.unlisted (_i : Nat) : Option Byte := none

/-- The value last written to an index, if one was. -/
def Memory.lookup : Memory → Nat → Option Byte
  | [], i => Memory.unlisted i
  | cell :: m, i => if cell.1 = i then some cell.2 else Memory.lookup m i

/-- One byte written, keeping the canonical form. No written value equals `Memory.unlisted`, so a write never removes an entry. -/
def Memory.store : Memory → Nat → Byte → Memory
  | [], i, v => [(i, v)]
  | cell :: m, i, v =>
    if i < cell.1 then (i, v) :: cell :: m
    else if i = cell.1 then (i, v) :: m
    else cell :: Memory.store m i v

/-- The byte an index holds now: the latest write (R60, R68), or a free draw where nobody has written (R236). -/
def State.byteAt (s : State) (i : Nat) : Byte :=
  (s.mem.lookup i).getD (Config.freeByte s.memEra i)

/-- `MemRead(addr, 1)` (R60): only the indices `0 .. FB_LEN - 1` exist (R50). -/
def memRead (s : State) (i : Nat) : Except Fault Byte :=
  if i < s.fbLen then .ok (s.byteAt i) else .error (.noSuchByte i)

/-- A host write of one byte (R62); an index outside the buffer is a no-op (R66, log 11). -/
def hostWrite (i : Nat) (v : Byte) (s : State) : State :=
  if i < s.fbLen then { s with mem := s.mem.store i v } else s

/-! ## Registers, traces and ports -/

/-- `SEQ <- position` (R11, R24). -/
def goTo (position : Position) (s : State) : State := { s with seq := position }

/-- `emit E` at the byte level (R11, R40). -/
def emit (e : ByteEvent) (s : State) : State := { s with byteTrace := s.byteTrace ++ [e] }

/-- An event of the pin level (R40, R96). -/
def emitPin (e : PinEvent) (s : State) : State := { s with pinTrace := s.pinTrace ++ [e] }

/-- A response on the response port (R32). -/
def respond (r : Response) (s : State) : State := { s with responses := s.responses ++ [r] }

/-- An index presented at the read port (R34). -/
def presentIndex (i : Nat) (s : State) : State := { s with fbReads := s.fbReads ++ [i] }

/-- `PHASE <- p` (R21). -/
def setPhase (p : BitVec 2) (s : State) : State := { s with phase := p }

/-- `K <- n` (R25). -/
def setK (n : Nat) (s : State) : State := { s with k := n }

/-- `SR <- b` (R27). -/
def setSr (b : Byte) (s : State) : State := { s with sr := b }

/-- The words still held at the command port after one was issued (R31). -/
def holdWords (words : List (BitVec 8)) (s : State) : State := { s with cmds := words }

/-! ## Commands: acceptance and refusal -/

/-- `raise <Error>`: the command is refused; the response is the whole effect (R11, R201, R202, R209). -/
def raiseError (r : Response) (s : State) : State := respond r s

/-- The acceptance of a command (R110): held while `cmd_ready` is 0, refused while `FAILED` is 1, performed otherwise. -/
def acceptCommand (perform : State → State) (s : State) : Host.Outcome State Fault Refusal :=
  if s.cmdReady then
    if s.failed then .next (raiseError .errFailed s) else .next (perform s)
  else .next s

/-! ## The pins -/

/-- `PINDIR(line)` (R161). -/
def pindir (line : Line) (s : State) : State :=
  emitPin (.dirset line) { s with dir := s.dir.set line .out }

/-- `PINSET(line, level)` (R162), and what the panel does at that change (R182, R183). -/
def pinset (line : Line) (level : Level) (s : State) : State :=
  emitPin (.set line level)
    { s with
      lvl := s.lvl.set line level
      panel := s.panel.react s.cfg s.lvl.sdata line (s.pad line) level }

/-- The bit counter of the bit-banged transport; the hardware peripheral's own counter is not visible (R26, R165; log 15). -/
def countBit (n : BitVec 3) (s : State) : State :=
  match s.cfg.transport with
  | .bitbang => { s with bitn := n }
  | .hwserial => s

/-- One bit on the serial line: data, leading edge, trailing edge (R164; the same events for both transports, R165). -/
def sendBit (b : Byte) (n : BitVec 3) (s : State) : State :=
  pinset .sclk s.cfg.sclkIdle (pinset .sclk (!s.cfg.sclkIdle) (pinset .sdata (bitAt b n) (countBit n s)))

/-- `SERBYTE(b)` (R163 to R165). -/
def serbyte (b : Byte) (s : State) : State :=
  (bitOrder s.cfg.serBitOrder).foldl (fun s n => sendBit b n s) s

/-! ## Reset -/

/-- The levels of lines nobody drives: free values (R41, U5). -/
def freeLevels (era : Nat) : Lines Level where
  oe := Config.freeLevel era 0
  a := Config.freeLevel era 1
  b := Config.freeLevel era 2
  sclk := Config.freeLevel era 3
  sdata := Config.freeLevel era 4
  lat := Config.freeLevel era 5

/-- What every reset does first: sample the topology, leave whatever was in progress, forget the traces, and leave `SR` and `BITN`
unspecified (R41, R230, R231). -/
def resetCommon (cfgW cfgH : Nat) (s : State) : State :=
  { s with
    panelsWide := cfgW
    panelsHigh := cfgH
    seq := .idle
    k := 0
    sr := Config.freeSr (s.resetEra + 1)
    bitn := Config.freeBitn (s.resetEra + 1)
    resetEra := s.resetEra + 1
    rst := false
    byteTrace := []
    pinTrace := []
    responses := []
    fbReads := [] }

/-- The reset sequence with an invalid topology: `FAILED`, nothing driven, no trace event (R231, R232). -/
def resetInvalid (s : State) : State :=
  { s with
    failed := true
    phase := 0
    dir := Lines.all .inward
    lvl := freeLevels s.resetEra }

/-- The reset sequence with a valid topology: the levels first, then the directions, `OE` first (R231). -/
def resetValid (s : State) : State :=
  allLines.foldl (fun s line => pindir line s)
    { s with
      failed := false
      phase := s.cfg.phaseReset
      lvl := Lines.resetLevels s.cfg }

/-- `RESET` (R231), one atomic step. The frame buffer, the panel and the waiting command words are not touched (R181, R236). -/
def resetSequence (cfgW cfgH : Nat) (s : State) : State :=
  if topologyValid cfgW cfgH then resetValid (resetCommon cfgW cfgH s) else resetInvalid (resetCommon cfgW cfgH s)

/-- `rst` held asserted: whatever was in progress is abandoned, no line is driven, no command is accepted, and the frame buffer's life
ends (R230, R233; log 9). DESIGN CHOICE: W and H keep their values, so the old `FB_LEN` still bounds the host's writes, until the reset that
ends the held `rst` samples `cfg_w` and `cfg_h`, since R233 does not say when they are sampled while `rst` is held (log 9). -/
def teardown (s : State) : State :=
  { s with
    rst := true
    seq := .idle
    k := 0
    dir := Lines.all .inward
    lvl := freeLevels (s.resetEra + 1)
    resetEra := s.resetEra + 1
    mem := []
    memEra := s.memEra + 1 }

end Sys2Proof.Machine
end

