-- ==== Sys2Proof/Machine/Commands.lean ====
section
/-! DEFINITION. Sys2Proof/Machine/Commands.lean: the meanings of the host commands (40_host_commands.md R110 to R113). -/

namespace Sys2Proof.Machine

/-- `SCAN` (R111): the scan's micro-operations run from `OEOFF`; the response comes with `OEON`. -/
def execScan (s : State) : Host.Outcome State Fault Refusal :=
  acceptCommand (goTo .oeoff) s

/-- `NEXT` (R112): a 2-bit add, the carry is dropped. -/
def execNext (s : State) : Host.Outcome State Fault Refusal :=
  acceptCommand (fun s => respond .ok (setPhase (s.phase + 1) s)) s

/-- `SETPH n` (R113). -/
def execSetph (n : BitVec 2) (s : State) : Host.Outcome State Fault Refusal :=
  acceptCommand (fun s => respond .ok (setPhase n s)) s

end Sys2Proof.Machine
end

