-- ==== Sys2Proof/Machine/Primitives.lean ====
section
/-! DEFINITION. Sys2Proof/Machine/Primitives.lean: the meanings of the three primitives of the hardware binding
(42_pin_serial_primitives.md R161 to R165). Micro-operations and the reset sequence invoke the operations these call. -/

namespace Sys2Proof.Machine

/-- `PINDIR line` (R161). -/
def execPindir (line : Line) (s : State) : Host.Outcome State Fault Refusal :=
  .next (pindir line s)

/-- `PINSET line, level` (R162). -/
def execPinset (line : Line) (level : Level) (s : State) : Host.Outcome State Fault Refusal :=
  .next (pinset line level s)

/-- `SERBYTE b` (R163). -/
def execSerbyte (b : Byte) (s : State) : Host.Outcome State Fault Refusal :=
  .next (serbyte b s)

end Sys2Proof.Machine
end

