-- ==== Sys2Proof/Machine/Sequence.lean ====
section
/-! DEFINITION. Sys2Proof/Machine/Sequence.lean: the meanings of the eight micro-operations of a scan (41_scan_sequence.md R130 to R139).
Each is always enabled in its position (R140) and reads no input. -/

namespace Sys2Proof.Machine

/-- `OEOFF` (R131). -/
def execOeoff (s : State) : Host.Outcome State Fault Refusal :=
  .next (goTo .rowsel (emit .oeOff (pinset .oe (!s.cfg.polOeOn) s)))

/-- `ROWSEL` (R132): line A first, then B. -/
def execRowsel (s : State) : Host.Outcome State Fault Refusal :=
  let code := s.rowselCode
  .next (goTo .fetch (emit (.sel code) (setK 0 (pinset .b (code.getLsbD 1) (pinset .a (code.getLsbD 0) s)))))

/-- `FETCH` (R133): the byte's value at this very step. -/
def execFetch (s : State) : Host.Outcome State Fault Refusal :=
  match memRead s s.fetchIndex with
  | .ok b => .next (goTo .send (setSr b (presentIndex s.fetchIndex s)))
  | .error f => .fault f

/-- `SEND` (R135): the byte is sent unmodified; the loop ends when `K` reaches `STREAM_LEN`. -/
def execSend (s : State) : Host.Outcome State Fault Refusal :=
  let position := if s.k + 1 < s.streamLen then Position.fetch else Position.latchhi
  .next (goTo position (setK (s.k + 1) (emit (.tx s.sr) (serbyte s.sr s))))

/-- `LATCHHI` (R136). -/
def execLatchhi (s : State) : Host.Outcome State Fault Refusal :=
  .next (goTo .hold (emit .latAssert (pinset .lat s.cfg.polLatActive s)))

/-- `HOLD` (R137): at least `T_LATCH_MIN` passes; the model records the event at both levels. -/
def execHold (s : State) : Host.Outcome State Fault Refusal :=
  .next (goTo .latchlo (emit .hold (emitPin .hold s)))

/-- `LATCHLO` (R138). -/
def execLatchlo (s : State) : Host.Outcome State Fault Refusal :=
  .next (goTo .oeon (emit .latDeassert (pinset .lat (!s.cfg.polLatActive) s)))

/-- `OEON` (R139): the response is the one to the `SCAN` that started the sequence. -/
def execOeon (s : State) : Host.Outcome State Fault Refusal :=
  .next (respond .ok (goTo .idle (emit .oeOn (pinset .oe s.cfg.polOeOn s))))

end Sys2Proof.Machine
end

