-- ==== Sys2Proof/Machine/Dispatch.lean ====
section
/-! DEFINITION. Sys2Proof/Machine/Dispatch.lean: one arm per operation of spec/opcode_table.json. -/

namespace Sys2Proof.Machine

def exec (i : Instr) (s : State) : Host.Outcome State Fault Refusal :=
  match i with
  -- host commands
  | .scan => Sys2Proof.Machine.execScan s
  | .next => Sys2Proof.Machine.execNext s
  | .setph n => Sys2Proof.Machine.execSetph n s
  -- micro-operations
  | .oeoff => Sys2Proof.Machine.execOeoff s
  | .rowsel => Sys2Proof.Machine.execRowsel s
  | .fetch => Sys2Proof.Machine.execFetch s
  | .send => Sys2Proof.Machine.execSend s
  | .latchhi => Sys2Proof.Machine.execLatchhi s
  | .hold => Sys2Proof.Machine.execHold s
  | .latchlo => Sys2Proof.Machine.execLatchlo s
  | .oeon => Sys2Proof.Machine.execOeon s
  -- primitives of the hardware binding
  | .pindir line => Sys2Proof.Machine.execPindir line s
  | .pinset line level => Sys2Proof.Machine.execPinset line level s
  | .serbyte b => Sys2Proof.Machine.execSerbyte b s

end Sys2Proof.Machine
end

