-- ==== Sys2Proof/Machine/Engine.lean ====
section
/-! DEFINITION. Sys2Proof/Machine/Engine.lean: what the engine does when it is left to run, and what the outside's actions do
(30_encoding.md R87, R100; 40_host_commands.md R110; 41_scan_sequence.md R130, R140; 70_reset_and_hazards.md R230). -/

namespace Sys2Proof.Machine

/-- The issue of a command word (R110): `FAILED` is tested before decoding (R208), an illegal word is refused (R201). -/
def issueWord (w : BitVec 8) (s : State) : Host.Outcome State Fault Refusal :=
  if s.failed then .next (raiseError .errFailed s)
  else
    match decode (.cmd w) with
    | .ok i => exec i s
    | .error _ => .next (raiseError .errIllegal s)

/-- The idle engine: it takes the word at the command port, or waits (R24, R31). -/
def acceptWord (s : State) : Host.Outcome State Fault Refusal :=
  match s.cmds with
  | [] => .next s
  | w :: rest => issueWord w (holdWords rest s)

/-- The engine left to run: nothing under a held `rst` (R233), the micro-operation its position selects (R87, R130), or, idle, the
command port. -/
def engineStep (s : State) : Host.Outcome State Fault Refusal :=
  if s.rst then .next s
  else
    match decode (.uop s.seq.code) with
    | .ok i => exec i s
    | .error _ => acceptWord s

/-- One action of the outside; each lands between two micro-operations (R62, D29). -/
def envStep (action : EnvAction) (s : State) : Host.Outcome State Fault Refusal :=
  match action with
  | .run => engineStep s
  | .write i v => .next (hostWrite i v s)
  | .reset cfgW cfgH => .next (resetSequence cfgW cfgH s)
  | .holdReset => .next (teardown s)

/-- What step needs in place to run a table word at once (log 14): a position code selects its micro-operation, any other byte is
the command at the port of the idle engine. The engine is left to run first, `rst` is released, and for a command `FAILED` is 0. -/
def placeTableWord (s : State) (nbits w : Nat) : State :=
  let running := { s with rst := false, env := .run :: s.env }
  let command (word : BitVec 8) := { running with seq := .idle, failed := false, cmds := word :: s.cmds }
  match tableWord nbits w with
  | .uop code =>
    match Position.ofCode code with
    | some .idle | none => command (BitVec.ofNat 8 (w % 2 ^ nbits))
    | some position => { running with seq := position }
  | .cmd word => command word
  | .pindir _ | .pinset _ | .serbyte _ => s

end Sys2Proof.Machine
end

