-- ==== Sys2Proof/Machine/Step.lean ====
section
/-! DEFINITION. Sys2Proof/Machine/Step.lean: one step of the whole machine, and the placement of one table word before it. -/

namespace Sys2Proof.Machine

/-- One step: the next action of the outside if it holds one ready, else the engine runs (log 1). -/
def step (s : State) : Host.Outcome State Fault Refusal :=
  match s.env with
  | [] => engineStep s
  | action :: rest => envStep action { s with env := rest }

/-- `s` with one table word placed so that the next step runs it (log 14). -/
def State.withFetchWord (s : State) (nbits w : Nat) : State := placeTableWord s nbits w

end Sys2Proof.Machine
end

