-- ==== Sys2Proof/Machine/Abstraction.lean ====
section
/-! DEFINITION. Sys2Proof/Machine/Abstraction.lean: from the pin-level trace to the byte-level trace (00_scope.md R12,
42_pin_serial_primitives.md R166). -/

namespace Sys2Proof.Machine

/-- What a reader of the pin-level trace keeps: the level last set on A and on SDATA, the bits taken since the last whole byte, and the
byte-level events read so far. -/
structure PinReader where
  lineA : Level
  data : Level
  bits : List Level
  events : List ByteEvent
  deriving DecidableEq, Repr

/-- The reader before the first event. -/
def PinReader.start : PinReader := ⟨false, false, [], []⟩

/-- One byte-level event read. -/
def PinReader.say (r : PinReader) (e : ByteEvent) : PinReader := { r with events := r.events ++ [e] }

/-- One pin-level event read (R166). A bit is taken at the leading edge of the clock; the byte is whole at the trailing edge of its
eighth bit. -/
def readPin (c : Config) (r : PinReader) : PinEvent → PinReader
  | .dirset _ => r
  | .hold => r.say .hold
  | .set .oe level => r.say (if level = c.polOeOn then .oeOn else .oeOff)
  | .set .a level => { r with lineA := level }
  | .set .b level => r.say (.sel (BitVec.ofBool level ++ BitVec.ofBool r.lineA))
  | .set .sdata level => { r with data := level }
  | .set .lat level => r.say (if level = c.polLatActive then .latAssert else .latDeassert)
  | .set .sclk level =>
    if level = c.sclkIdle then
      if r.bits.length = c.clocksPerByte.count then { r.say (.tx (byteOf r.bits)) with bits := [] } else r
    else { r with bits := r.bits ++ [r.data] }

/-- The reader after a whole pin-level trace. -/
def readPins (c : Config) (trace : List PinEvent) : PinReader := trace.foldl (readPin c) PinReader.start

/-- The byte-level trace of a pin-level trace (R166). -/
def abstractTrace (c : Config) (trace : List PinEvent) : List ByteEvent := (readPins c trace).events

end Sys2Proof.Machine
end

