-- ==== Sys2Proof/Machine/Assembler.lean ====
section
/-! DEFINITION. Sys2Proof/Machine/Assembler.lean: the syntax of command sequences (30_encoding.md R97, R98): one command a line,
mnemonics in capitals, one decimal operand for `SETPH`, a `;` starts a comment. -/

namespace Sys2Proof.Machine

/-- A line without its comment. -/
def withoutComment : List Char → List Char
  | [] => []
  | ch :: rest => if ch = ';' then [] else ch :: withoutComment rest

/-- The non-empty pieces of a text between separators. -/
def piecesBy (sep : Char) : List Char → List Char → List (List Char)
  | [], [] => []
  | [], piece => [piece.reverse]
  | ch :: rest, piece =>
    if ch = sep then
      match piece with
      | [] => piecesBy sep rest []
      | _ :: _ => piece.reverse :: piecesBy sep rest []
    else piecesBy sep rest (ch :: piece)

/-- The decimal operand of `SETPH` (R97). -/
def phaseDigit (ch : Char) : Option (BitVec 2) :=
  if ch = '0' then some 0
  else if ch = '1' then some 1
  else if ch = '2' then some 2
  else if ch = '3' then some 3
  else none

/-- The commands of one line: none for an empty line, the expansion of a pseudo-instruction (R98). -/
def assembleLine (line : List Char) : Option (List Instr) :=
  match piecesBy ' ' (withoutComment line) [] with
  | [] => some []
  | [['S', 'C', 'A', 'N']] => some [.scan]
  | [['N', 'E', 'X', 'T']] => some [.next]
  | [['S', 'C', 'A', 'N', 'A', 'D', 'V']] => some (Pseudo.expand .scanadv)
  | [['F', 'R', 'A', 'M', 'E']] => some (Pseudo.expand .frame)
  | [['H', 'O', 'M', 'E']] => some (Pseudo.expand .home)
  | [['S', 'E', 'T', 'P', 'H'], [digit]] => (phaseDigit digit).map fun n => [.setph n]
  | _ => none

/-- The command words of a text (R82, R97). -/
def assemble (text : List Char) : Option (List (BitVec 8)) :=
  ((piecesBy '\n' text []).mapM assembleLine).map fun lines => lines.flatten.filterMap commandWord

end Sys2Proof.Machine
end

