-- ==== Sys2Proof/Machine/Mapper.lean ====
section
/-! DEFINITION. Sys2Proof/Machine/Mapper.lean: the writers' address transform (20_memory.md R54 to R59), which says what pixel a
streamed bit is. It is context: the engine performs none of it (R67). PRESUMED through the spec: `bx` and `by` of R58 (G2, log 17). -/

namespace Sys2Proof.Machine

/-- The physical row of a logical row (R56). -/
def remapRow (y : Nat) : Nat := (y - y % 4) + (y % 4 + 3) % 4

/-- The logical row of a physical row: the inverse (R56). -/
def unmapRow (pr : Nat) : Nat := (pr - pr % 4) + (pr % 4 + 1) % 4

/-- The panel of a pixel (R57). -/
def panelOf (panelsWide x y : Nat) : Nat := x / 32 + panelsWide * (remapRow y / 16)

/-- `bx` (R58). -/
def bufferX (panelsWide x y : Nat) : Nat := x % 32 + 32 * panelOf panelsWide x y

/-- `by` (R58). -/
def bufferRow (y : Nat) : Nat := remapRow y % 16

/-- The frame-buffer index of a pixel (R58). -/
def pixelIndex (panelsWide panels x y : Nat) : Nat := bufferX panelsWide x y / 8 + bufferRow y * (panels * 4)

/-- The bit number of a pixel in its byte: the leftmost of eight is bit 7 (R54). -/
def pixelBit (panelsWide x y : Nat) : Nat := 7 - bufferX panelsWide x y % 8

/-- The mask of a pixel in its byte: `lookup_table[bx mod 8]` (R54). -/
def pixelMask (panelsWide x y : Nat) : Byte := 0x80#8 >>> (bufferX panelsWide x y % 8)

/-- The pixel is on the canvas (R59). -/
def State.onCanvas (s : State) (x y : Nat) : Bool := x < 32 * s.panelsWide && y < 16 * s.panelsHigh

/-- The buffer's bit for a pixel (R54, R58). -/
def State.pixelStored (s : State) (x y : Nat) : Level :=
  (s.byteAt (pixelIndex s.panelsWide s.panels x y)).getLsbD (pixelBit s.panelsWide x y)

/-- What the host writes to set one pixel: a read-modify-write of one byte, nothing outside the canvas (R59, R62). -/
def State.pixelWrite (s : State) (x y : Nat) (lit : Level) : List EnvAction :=
  if s.onCanvas x y then
    let i := pixelIndex s.panelsWide s.panels x y
    let mask := pixelMask s.panelsWide x y
    [.write i (if lit then s.byteAt i ||| mask else s.byteAt i &&& ~~~mask)]
  else []

/-- What the host writes for `clear()`: 0x00 to every byte (R55, R236, D22). -/
def State.clearWrites (s : State) : List EnvAction :=
  (List.range s.fbLen).map fun i => .write i 0x00#8

/-- The LED of a pixel is lit: panel `panelOf`, row and column inside that panel (R186, R189). -/
def State.pixelLit (s : State) (x y : Nat) : Bool :=
  s.ledLit (panelOf s.panelsWide x y) (y % 16) (x % 32)

end Sys2Proof.Machine
end

