-- ==== Sys2Proof/Safety.lean ====
section
/-! DEFINITION. Sys2Proof/Safety.lean: the terms claims are stated in: what a step answers, the invariants of a run, the order of line
changes a panel relies on, the duty on time, and what one scan sends. -/

namespace Sys2Proof.Machine

/-- The engine can take a command: idle, no reset held, topology valid (R110). -/
def State.ready (s : State) : Bool := s.cmdReady && !s.failed

/-- The outside leaves the engine to run in this step. -/
def State.runs (s : State) : Prop := s.env = [] ∨ ∃ rest, s.env = .run :: rest

/-- `s` with this step's action of the outside taken. -/
def State.taken (s : State) : State := { s with env := s.env.tail }

/-! ## The invariant of the engine (41_scan_sequence.md R143, 10_state.md R22, R25, R29) -/

/-- The positions between the completion of `OEOFF` and the start of `OEON` (R143a). -/
def Position.dark : Position → Bool
  | .rowsel | .fetch | .send | .latchhi | .hold | .latchlo | .oeon => true
  | .idle | .oeoff => false

/-- The positions after `ROWSEL` of a scan. -/
def Position.selected : Position → Bool
  | .fetch | .send | .latchhi | .hold | .latchlo | .oeon => true
  | .idle | .oeoff | .rowsel => false

/-- The positions after the last `SEND` of a scan. -/
def Position.sent : Position → Bool
  | .latchhi | .hold | .latchlo | .oeon => true
  | .idle | .oeoff | .rowsel | .fetch | .send => false

/-- The positions between `LATCHHI` and `LATCHLO`. -/
def Position.latching : Position → Bool
  | .hold | .latchlo => true
  | .idle | .oeoff | .rowsel | .fetch | .send | .latchhi | .oeon => false

/-- What holds of every state a run reaches. -/
structure Inv (s : State) : Prop where
  /-- The frame buffer is in its canonical form. -/
  memory : s.mem.wf
  /-- `FAILED` is 1 exactly when the topology is invalid (R22, R232). -/
  failed : s.failed = !topologyValid s.panelsWide s.panelsHigh
  /-- No scan is in progress while the engine cannot work (R202, R233). -/
  stopped : s.working = false → s.seq = .idle
  /-- Inside the loop the counter is below `STREAM_LEN` (R25). -/
  counting : s.seq = .fetch ∨ s.seq = .send → s.k < s.streamLen
  /-- After the loop the counter is `STREAM_LEN` (R134). -/
  counted : s.seq.sent = true → s.k = s.streamLen
  /-- All lines are driven by a working engine, none otherwise (R29, R41, R233). -/
  directions : s.dir = Lines.all (if s.working then Dir.out else Dir.inward)
  /-- The clock is idle at every step boundary (R143c). -/
  clock : s.working = true → s.clockIdle = true
  /-- The latch is asserted from `LATCHHI` to `LATCHLO` and at no other time (R143b). -/
  latch : s.working = true → s.latAsserted = s.seq.latching
  /-- The output is off from `OEOFF` to `OEON` (R143a). -/
  dark : s.seq.dark = true → s.oeOn = false
  /-- The lines carry the code of the phase from `ROWSEL` on (R132, R145). -/
  select : s.seq.selected = true → s.sel = s.rowselCode

/-- From reset to the first `OEON` the output of a working engine is off (R41, R131, R139). -/
def DarkBeforeOeon (s : State) : Prop :=
  s.working = true → ByteEvent.oeOn ∉ s.byteTrace → s.oeOn = false

/-! ## What the panel shows belongs to one phase (R145) -/

/-- The bytes sent since the last row selection. -/
def sentBytes (trace : List ByteEvent) : List Byte :=
  trace.foldl (fun sent e =>
    match e with
    | .sel _ => []
    | .tx b => sent ++ [b]
    | .oeOff | .oeOn | .latAssert | .hold | .latDeassert => sent) []

/-- The code last selected. -/
def sentCode (trace : List ByteEvent) : Option (BitVec 2) :=
  trace.foldl (fun code e =>
    match e with
    | .sel c => some c
    | .tx _ | .oeOff | .oeOn | .latAssert | .hold | .latDeassert => code) none

/-- The panel's chain is as long as the engine's topology says (R191). -/
def State.panelFits (s : State) : Prop := s.panel.chain.length = 128 * s.panels

/-- What the chain and the latches hold at each position of a scan, for a panel that fits: the bytes of this scan. -/
structure PanelInv (s : State) : Prop where
  /-- Inside the loop the newest bytes of the chain are the ones sent so far. -/
  shifting : s.working = true → s.panelFits → s.seq = .fetch ∨ s.seq = .send →
    (sentBytes s.byteTrace).length = s.k ∧ s.panel.rx.drop (s.streamLen - s.k) = sentBytes s.byteTrace
  /-- After the loop the whole chain is this scan's. -/
  shifted : s.working = true → s.panelFits → s.seq = .latchhi → s.panel.rx = sentBytes s.byteTrace
  /-- From the latch on, and whenever the output is on, the latches hold the bytes sent since the row was selected and the lines carry
  the code selected then. -/
  shown : s.working = true → s.panelFits → s.seq = .hold ∨ s.seq = .latchlo ∨ s.seq = .oeon ∨ s.oeOn = true →
    s.panel.latched = sentBytes s.byteTrace
  /-- Once a scan has selected its row, the code on the lines is the one in the trace. -/
  code : s.working = true → s.seq.selected = true ∨ s.oeOn = true → sentCode s.byteTrace = some s.sel

/-! ## The order of line changes the panel relies on (70_reset_and_hazards.md R242) -/

/-- What the pin-level trace so far says of the lines: output on, latch asserted, held since then, and the clock pulses since the row
was selected (none before). -/
structure LineWatch where
  outputOn : Bool
  latched : Bool
  held : Bool
  pulses : Option Nat
  deriving DecidableEq, Repr

/-- Before the first event: the output is off and the latch deasserted (R231). -/
def LineWatch.start : LineWatch := ⟨false, false, false, none⟩

/-- One event watched; `none` when the event breaks the order of R242: the row changes only with the output off; the clock changes only
with the output off and the latch deasserted; the latch is asserted only with the output off, after the row was selected and all
`edges` pulses sent; it is deasserted only after the hold; the output goes on only with the latch deasserted. -/
def watchPin (c : Config) (edges : Nat) : Option LineWatch → PinEvent → Option LineWatch
  | none, _ => none
  | some w, .dirset _ => some w
  | some w, .hold => if w.latched then some { w with held := true } else none
  | some w, .set .oe level =>
    if level = c.polOeOn then
      if w.latched then none else some { w with outputOn := true }
    else some { w with outputOn := false }
  | some w, .set .a _ => if w.outputOn then none else some { w with pulses := none }
  | some w, .set .b _ => if w.outputOn then none else some { w with pulses := some 0 }
  | some w, .set .sdata _ => some w
  | some w, .set .sclk level =>
    if w.outputOn || w.latched then none
    else if level = c.sclkIdle then some w
    else some { w with pulses := w.pulses.map (· + 1) }
  | some w, .set .lat level =>
    if level = c.polLatActive then
      if w.outputOn || w.pulses != some edges then none else some { w with latched := true, held := false }
    else if w.latched && !w.held then none
    else some { w with latched := false }

/-- The watch over a whole pin-level trace. -/
def watchPins (c : Config) (edges : Nat) (trace : List PinEvent) : Option LineWatch :=
  trace.foldl (watchPin c edges) (some LineWatch.start)

/-- The trace so far keeps the order of R242, and the watch agrees with the lines and the position. -/
structure OrderInv (s : State) : Prop where
  watched : s.working = true → ∃ w, watchPins s.cfg (8 * s.streamLen) s.pinTrace = some w ∧
    w.outputOn = s.oeOn ∧ w.latched = s.latAsserted ∧
    (s.seq = .fetch ∨ s.seq = .send → w.pulses = some (8 * s.k)) ∧
    (s.seq = .latchhi → w.pulses = some (8 * s.streamLen)) ∧
    (s.seq = .latchlo → w.held = true)

/-! ## The duty on time (R137, R241, R247) -/

/-- A time stamp for each event of a pin-level trace, in whole microseconds: DESIGN CHOICE, the spec gives no resolution (log 23). -/
abbrev TimedTrace := List (Nat × PinEvent)

/-- What a timed implementation owes: time does not run backwards, and `HOLD` ends at least `T_LATCH_MIN` after the event before it
(R137). -/
def keepsHoldTime (c : Config) : TimedTrace → Prop
  | [] => True
  | [_] => True
  | first :: second :: rest =>
    first.1 ≤ second.1 ∧ (second.2 = .hold → first.1 + c.tLatchMinUs ≤ second.1) ∧ keepsHoldTime c (second :: rest)

/-- Every deassertion of the latch comes at least `T_LATCH_MIN` after the assertion before it (R241, R247); `since` is the time of the
last assertion. -/
def latchPulsesWide (c : Config) (since : Option Nat) : TimedTrace → Prop
  | [] => True
  | event :: rest =>
    match event.2 with
    | .set .lat level =>
      if level = c.polLatActive then latchPulsesWide c (some event.1) rest
      else (∀ t, since = some t → t + c.tLatchMinUs ≤ event.1) ∧ latchPulsesWide c none rest
    | .set .oe _ | .set .a _ | .set .b _ | .set .sclk _ | .set .sdata _ | .dirset _ | .hold => latchPulsesWide c since rest

/-! ## One scan (R141) -/

/-- The bytes one scan at the current phase sends if nobody writes the buffer meanwhile (R141). -/
def State.scanBytes (s : State) : List Byte :=
  (List.range s.streamLen).map fun k => s.byteAt (src s.cfg.streamOrder s.panels s.phase k)

/-- `s` at another phase. -/
def State.atPhase (s : State) (p : BitVec 2) : State := { s with phase := p }

/-- The byte-level events of one scan that sends these bytes (R141). -/
def scanEvents (code : BitVec 2) (bytes : List Byte) : List ByteEvent :=
  ByteEvent.oeOff :: ByteEvent.sel code ::
    bytes.map ByteEvent.tx ++ [ByteEvent.latAssert, ByteEvent.hold, ByteEvent.latDeassert, ByteEvent.oeOn]

/-- The event is a byte sent. -/
def ByteEvent.isTx : ByteEvent → Bool
  | .tx _ => true
  | .oeOff | .oeOn | .sel _ | .latAssert | .hold | .latDeassert => false

/-- The pin-level events of one byte (R164). -/
def serialEvents (c : Config) (b : Byte) : List PinEvent :=
  (byteBits c.serBitOrder b).flatMap fun d => [.set .sdata d, .set .sclk (!c.sclkIdle), .set .sclk c.sclkIdle]

/-- The pin-level events of one scan that sends these bytes (R166, R168). -/
def scanPinEvents (c : Config) (code : BitVec 2) (bytes : List Byte) : List PinEvent :=
  PinEvent.set .oe (!c.polOeOn) :: PinEvent.set .a (code.getLsbD 0) :: PinEvent.set .b (code.getLsbD 1) ::
    bytes.flatMap (serialEvents c) ++
      [PinEvent.set .lat c.polLatActive, PinEvent.hold, PinEvent.set .lat (!c.polLatActive), PinEvent.set .oe c.polOeOn]

/-- The indices one scan at the current phase reads (R65). -/
def State.scanIndices (s : State) : List Nat :=
  (List.range s.streamLen).map fun k => src s.cfg.streamOrder s.panels s.phase k

/-- The steps of one scan that runs undisturbed: the issue and `6 + 2 × STREAM_LEN` micro-operations (R140). -/
def State.scanSteps (s : State) : Nat := 1 + (6 + 2 * s.streamLen)

end Sys2Proof.Machine
end

