-- ==== Sys2Proof/Certificates/Slice0/Obligations.lean ====
section
/-! DEFINITION. Sys2Proof/Certificates/Slice0/Obligations.lean: the statements for the provers. Each docstring names the rules of spec/ the
statement formalises; where it rests on a choice of the model it names the log entry. -/

open Sys2Proof Sys2Proof.Machine

/-! ## Encoding -/

/-- A few words written out from the tables of 30_encoding.md R82, R87, R94 and the operand fields of R99 decode to their operations. -/
def Obligations.WrittenOutWordsDecode : Prop :=
  decode (.cmd 0b00010000#8) = .ok .scan ∧ decode (.cmd 0b00100000#8) = .ok .next ∧
  decode (.cmd 0b00110000#8) = .ok (.setph 0) ∧ decode (.cmd 0b00110001#8) = .ok (.setph 1) ∧
  decode (.cmd 0b00110010#8) = .ok (.setph 2) ∧ decode (.cmd 0b00110011#8) = .ok (.setph 3) ∧
  decode (.uop 0b0001#4) = .ok .oeoff ∧ decode (.uop 0b0010#4) = .ok .rowsel ∧ decode (.uop 0b0011#4) = .ok .fetch ∧
  decode (.uop 0b0100#4) = .ok .send ∧ decode (.uop 0b0101#4) = .ok .latchhi ∧ decode (.uop 0b0110#4) = .ok .hold ∧
  decode (.uop 0b0111#4) = .ok .latchlo ∧ decode (.uop 0b1000#4) = .ok .oeon ∧
  decode (.pindir 0b101#3) = .ok (.pindir .lat) ∧ decode (.pinset 0b0111#4) = .ok (.pinset .sclk true) ∧
  decode (.serbyte 0b10000001#8) = .ok (.serbyte 0x81#8)

/-- 30_encoding.md R84: the legal command words are the six of R82, the other 250 are illegal. -/
def Obligations.LegalCommandWordsAreTheSix : Prop :=
  (∀ w : BitVec 8, (∃ i, decode (.cmd w) = .ok i) ↔ w ∈ [0x10#8, 0x20#8, 0x30#8, 0x31#8, 0x32#8, 0x33#8]) ∧
  (∀ w : BitVec 8, (∀ i, decode (.cmd w) ≠ .ok i) → decode (.cmd w) = .error .illegalCommand) ∧
  ((List.range 256).filter fun w => !cmdWordWf (BitVec.ofNat 8 w)).length = 250

/-- Decode and encode agree for every instruction of every format, with every operand (30_encoding.md R82, R87, R94, R99). -/
def Obligations.DecodeOfEncodeIsTheInstruction : Prop :=
  ∀ i : Instr, i.wf = true → (encode i).wf = true ∧ decode (encode i) = .ok i

/-- Every word of every format has one meaning: what decodes is exactly what is well formed, and it is the encoding of its
instruction (30_encoding.md R82, R84, R87, R94). -/
def Obligations.DecodedWordIsTheEncoding : Prop :=
  (∀ (e : Encoded) (i : Instr), decode e = .ok i → encode i = e ∧ e.wf = true) ∧
  (∀ e : Encoded, e.wf = true → ∃ i, decode e = .ok i)

/-! ## The step -/

/-- A step the engine is left to make runs the decoded operation: the micro-operation of the position code, or, idle, the command at the
port, taken off it (30_encoding.md R87, R100; 40_host_commands.md R110; 41_scan_sequence.md R130). What the step adds around exec is the
taking of the outside's action (log 1) and of the command word. -/
def Obligations.StepRunsTheDecodedOperation : Prop :=
  (∀ (s : State) (i : Instr), s.runs → s.rst = false → decode (.uop s.seq.code) = .ok i → step s = exec i s.taken) ∧
  (∀ (s : State) (w : BitVec 8) (rest : List (BitVec 8)) (i : Instr), s.runs → s.rst = false → s.failed = false →
    s.seq = .idle → s.cmds = w :: rest → decode (.cmd w) = .ok i → step s = exec i (holdWords rest s.taken))

/-- The model's choice of log 14: a table word placed by `withFetchWord` is what the very next step runs, on a state with the same registers,
memory and inputs. -/
def Obligations.PlacedTableWordRunsNext : Prop :=
  ∀ (s : State) (w : Nat) (i : Instr), decodeTableWord 8 w = some i →
    step (s.withFetchWord 8 w) = exec i { s with rst := false, seq := .idle, failed := false } ∨
    ∃ position : Position, decode (.uop position.code) = .ok i ∧
      step (s.withFetchWord 8 w) = exec i { s with rst := false, seq := position }

/-- 41_scan_sequence.md R130: the successor of every position when the engine is left to run. -/
def Obligations.SequencerFollowsTheSuccessorTable : Prop :=
  ∀ s t : State, s.runs → s.rst = false → step s = .next t →
    match s.seq with
    | .idle => (t.seq = .oeoff ∧ s.failed = false ∧ ∃ rest, s.cmds = 0x10#8 :: rest) ∨
        (t.seq = .idle ∧ ¬(s.failed = false ∧ ∃ rest, s.cmds = 0x10#8 :: rest))
    | .oeoff => t.seq = .rowsel
    | .rowsel => t.seq = .fetch
    | .fetch => t.seq = .send
    | .send => t.seq = if t.k < t.streamLen then .fetch else .latchhi
    | .latchhi => t.seq = .hold
    | .hold => t.seq = .latchlo
    | .latchlo => t.seq = .oeon
    | .oeon => t.seq = .idle

/-! ## Host commands -/

/-- 40_host_commands.md R110, R111: an accepted `SCAN` moves the sequencer to `OEOFF` and does nothing else; while `FAILED` is 1 it is
refused. -/
def Obligations.ScanStartsTheSequence : Prop :=
  (∀ s : State, s.ready = true → exec .scan s = .next { s with seq := .oeoff }) ∧
  (∀ s : State, s.cmdReady = true → s.failed = true →
    exec .scan s = .next { s with responses := s.responses ++ [.errFailed] })

/-- 40_host_commands.md R112: the word, the effect, and that `PHASE` is all it writes. -/
def Obligations.NextAdvancesThePhase : Prop :=
  decode (.cmd 0x20#8) = .ok .next ∧
  (∀ s : State, s.ready = true → ∃ t, exec .next s = .next t ∧ t.phase.toNat = (s.phase.toNat + 1) % 4 ∧
    t = { s with phase := t.phase, responses := s.responses ++ [.ok] }) ∧
  (∀ s : State, s.cmdReady = true → s.failed = true →
    exec .next s = .next { s with responses := s.responses ++ [.errFailed] })

/-- 40_host_commands.md R113: the words, the effect, and that `PHASE` is all it writes. -/
def Obligations.SetphSetsThePhase : Prop :=
  (∀ n : BitVec 2, decode (.cmd (BitVec.ofNat 8 (0x30 + n.toNat))) = .ok (.setph n)) ∧
  (∀ (s : State) (n : BitVec 2), s.ready = true →
    exec (.setph n) s = .next { s with phase := n, responses := s.responses ++ [.ok] }) ∧
  (∀ (s : State) (n : BitVec 2), s.cmdReady = true → s.failed = true →
    exec (.setph n) s = .next { s with responses := s.responses ++ [.errFailed] })

/-- 40_host_commands.md R110: no command is issued while the engine cannot take one; the host waits with its words. That exec of a command
answers the same state while `cmd_ready` is 0 is the model's reading of that wait (log 10, DEDUCED). -/
def Obligations.CommandsWaitUntilReady : Prop :=
  (∀ s : State, s.cmdReady = false → exec .scan s = .next s ∧ exec .next s = .next s ∧ ∀ n, exec (.setph n) s = .next s) ∧
  (∀ s t : State, s.runs → s.cmdReady = false → step s = .next t → t.cmds = s.cmds)

/-- 60_exceptions.md R201: an illegal word's whole effect is the response, and the engine takes the next word. -/
def Obligations.IllegalWordIsRefused : Prop :=
  ∀ (s : State) (w : BitVec 8) (rest : List (BitVec 8)), s.runs → s.ready = true → s.cmds = w :: rest → cmdWordWf w = false →
    step s = .next { s.taken with cmds := rest, responses := s.responses ++ [.errIllegal] } ∧
    State.cmdReady { s.taken with cmds := rest, responses := s.responses ++ [.errIllegal] } = true

/-- 10_state.md R33, R31, 30_encoding.md R86: what the status port, the response port and `cmd_ready` show. -/
def Obligations.PortsShowTheState : Prop :=
  (∀ s : State, s.status = ⟨s.phase, s.busy, s.failed⟩ ∧ (s.busy = true ↔ s.seq ≠ .idle) ∧
    (s.rst = false → (s.cmdReady = true ↔ s.seq = .idle))) ∧
  Response.code .ok = 0b00#2 ∧ Response.code .errIllegal = 0b01#2 ∧ Response.code .errFailed = 0b10#2

/-- 30_encoding.md R98: the pseudo-instructions' command words, and that the `NEXT`s of `FRAME`, executed one after the
other from a ready engine, return to the phase they began with. -/
def Obligations.PseudoInstructionsExpand : Prop :=
  (Pseudo.expand .scanadv).filterMap commandWord = [0x10#8, 0x20#8] ∧
  (Pseudo.expand .frame).filterMap commandWord = [0x10#8, 0x20#8, 0x10#8, 0x20#8, 0x10#8, 0x20#8, 0x10#8, 0x20#8] ∧
  (Pseudo.expand .home).filterMap commandWord = [0x30#8] ∧
  (Pseudo.expand .frame).filter (· = .next) = [.next, .next, .next, .next] ∧
  ∀ s : State, s.ready = true → ∃ t u v w, exec .next s = .next t ∧ exec .next t = .next u ∧ exec .next u = .next v ∧
    exec .next v = .next w ∧ w = { s with responses := s.responses ++ [.ok, .ok, .ok, .ok] }

/-- 60_exceptions.md R202, R208, R210: while `FAILED` is 1 every word, legal or not, is answered `ERR_FAILED` and nothing is done; no line is
driven; only a reset with a valid topology ends it. -/
def Obligations.FailedEngineRefusesEveryWord : Prop :=
  (∀ (s : State) (w : BitVec 8) (rest : List (BitVec 8)), s.runs → s.failed = true → s.cmdReady = true → s.cmds = w :: rest →
    step s = .next { s.taken with cmds := rest, responses := s.responses ++ [.errFailed] }) ∧
  (∀ (s : State) (line : Line), Inv s → s.failed = true → s.pad line = none) ∧
  (∀ s t : State, Inv s → s.failed = true → step s = .next t → t.failed = false →
    ∃ w h rest, s.env = .reset w h :: rest ∧ topologyValid w h = true)

/-- 10_state.md R32: every issued word is answered exactly once, at once or, for a `SCAN`, when `OEON` completes. -/
def Obligations.EveryIssuedWordIsAnsweredOnce : Prop :=
  ∀ s t : State, s.runs → step s = .next t →
    t.responses.length + t.busy.toNat + t.cmds.length = s.responses.length + s.busy.toNat + s.cmds.length ∧
    (t.cmds = s.cmds ∨ ∃ w, s.cmds = w :: t.cmds ∧ (t.responses.length = s.responses.length + 1 ∨ t.seq = .oeoff)) ∧
    (s.seq = .oeon → s.rst = false → t.responses = s.responses ++ [.ok])

/-- 41_scan_sequence.md R140, R145: once a scan is in progress only a reset or a held reset disturbs it: the phase, the directions, the
topology, the configuration and the waiting words stay, and the sequencer moves only by its own micro-operation. -/
def Obligations.NothingButResetDisturbsAScan : Prop :=
  ∀ s t : State, s.seq ≠ .idle → step s = .next t →
    (∃ w h rest, s.env = .reset w h :: rest) ∨ (∃ rest, s.env = .holdReset :: rest) ∨
    (t.phase = s.phase ∧ t.failed = s.failed ∧ t.dir = s.dir ∧ t.panelsWide = s.panelsWide ∧ t.panelsHigh = s.panelsHigh ∧
      t.cfg = s.cfg ∧ t.cmds = s.cmds ∧ (t.seq = s.seq ∨ s.runs ∧ s.rst = false))

/-! ## Micro-operations -/

/-- 41_scan_sequence.md R131: the output is off after `OEOFF`, no LED is lit, nothing else changes. -/
def Obligations.OeoffDisablesTheOutput : Prop :=
  ∀ s : State, ∃ t, exec .oeoff s = .next t ∧
    t = { s with
      lvl := { s.lvl with oe := !s.cfg.polOeOn }
      byteTrace := s.byteTrace ++ [.oeOff]
      pinTrace := s.pinTrace ++ [.set .oe (!s.cfg.polOeOn)]
      seq := .rowsel } ∧
    t.oeOn = false ∧ (∀ j r xl, t.ledLit j r xl = false) ∧ ∀ i, t.byteAt i = s.byteAt i

/-- 41_scan_sequence.md R132: the two row-select lines carry the code of the phase, A written first; `K` is 0. -/
def Obligations.RowselDrivesTheCode : Prop :=
  ∀ s : State, ∃ t, exec .rowsel s = .next t ∧
    t = { s with
      lvl := { s.lvl with a := s.rowselCode.getLsbD 0, b := s.rowselCode.getLsbD 1 }
      k := 0
      byteTrace := s.byteTrace ++ [.sel s.rowselCode]
      pinTrace := s.pinTrace ++ [.set .a (s.rowselCode.getLsbD 0), .set .b (s.rowselCode.getLsbD 1)]
      seq := .fetch } ∧
    t.sel = s.rowselCode ∧ ∀ i, t.byteAt i = s.byteAt i

/-- 41_scan_sequence.md R133, 20_memory.md R60, R66: inside the loop `FETCH` takes the byte the stream names, as it is now, and changes
nothing else; the index is always in range. Outside the buffer there is no byte and the model stops by name (log 16). -/
def Obligations.FetchReadsTheLiveByte : Prop :=
  (∀ s : State, s.k < s.streamLen → s.fetchIndex < s.fbLen) ∧
  (∀ s : State, s.fetchIndex < s.fbLen → ∃ t, exec .fetch s = .next t ∧
    t = { s with sr := s.byteAt s.fetchIndex, fbReads := s.fbReads ++ [s.fetchIndex], seq := .send } ∧
    ∀ i, t.byteAt i = s.byteAt i) ∧
  (∀ s : State, s.fbLen ≤ s.fetchIndex → exec .fetch s = .fault (.noSuchByte s.fetchIndex))

/-- 41_scan_sequence.md R135, 42_pin_serial_primitives.md R164, R169: `SEND` puts the byte unmodified on the line as 24 pin events, counts
it, and loops while bytes are left. A driven, idle clock moves the eight bits into the panel's chain (45_panel_reference.md R182). The
model's choices: `BITN` afterwards (log 15, DESIGN CHOICE), and that an undriven clock shifts nothing (log 8, DEDUCED). What a driven clock
that is not idle does to the panel is left out: it is outside the precondition of R163. -/
def Obligations.SendShiftsTheByteOut : Prop :=
  ∀ s : State, ∃ t, exec .send s = .next t ∧
    t = { s with
      lvl := { s.lvl with sdata := s.sr.getLsbD 0, sclk := s.cfg.sclkIdle }
      bitn := if s.cfg.transport = .bitbang then 0 else s.bitn
      byteTrace := s.byteTrace ++ [.tx s.sr]
      pinTrace := s.pinTrace ++ serialEvents s.cfg s.sr
      k := s.k + 1
      seq := if s.k + 1 < s.streamLen then .fetch else .latchhi
      panel := t.panel } ∧
    (s.dir.sclk = .out → s.clockIdle = true → t.panel = (byteBits s.cfg.serBitOrder s.sr).foldl Panel.shift s.panel) ∧
    (s.dir.sclk = .inward → t.panel = s.panel) ∧
    t.panel.latched = s.panel.latched ∧ ∀ i, t.byteAt i = s.byteAt i

/-- 41_scan_sequence.md R136, R138, 45_panel_reference.md R183: the two halves of the latch pulse; the panel takes its chain at the
assertion and at no other moment. That an undriven latch line leaves the latches alone is the model's reading (log 8). -/
def Obligations.LatchPairPulsesTheLatch : Prop :=
  (∀ s : State, ∃ t, exec .latchhi s = .next t ∧
    t = { s with
      lvl := { s.lvl with lat := s.cfg.polLatActive }
      byteTrace := s.byteTrace ++ [.latAssert]
      pinTrace := s.pinTrace ++ [.set .lat s.cfg.polLatActive]
      seq := .hold
      panel := if s.pad .lat = some (!s.cfg.polLatActive) then { s.panel with latched := s.panel.rx } else s.panel } ∧
    t.latAsserted = true ∧ ∀ i, t.byteAt i = s.byteAt i) ∧
  (∀ s : State, ∃ t, exec .latchlo s = .next t ∧
    t = { s with
      lvl := { s.lvl with lat := !s.cfg.polLatActive }
      byteTrace := s.byteTrace ++ [.latDeassert]
      pinTrace := s.pinTrace ++ [.set .lat (!s.cfg.polLatActive)]
      seq := .oeon } ∧
    t.latAsserted = false ∧ ∀ i, t.byteAt i = s.byteAt i)

/-- 41_scan_sequence.md R137: `HOLD` changes no line; its content is one event at each level. -/
def Obligations.HoldOnlyWaits : Prop :=
  ∀ s : State, ∃ t, exec .hold s = .next t ∧
    t = { s with byteTrace := s.byteTrace ++ [.hold], pinTrace := s.pinTrace ++ [.hold], seq := .latchlo } ∧
    (∀ line, t.pad line = s.pad line) ∧ ∀ i, t.byteAt i = s.byteAt i

/-- 41_scan_sequence.md R139: the output is on, the engine idle, and the `SCAN` answered. -/
def Obligations.OeonEnablesAndResponds : Prop :=
  ∀ s : State, ∃ t, exec .oeon s = .next t ∧
    t = { s with
      lvl := { s.lvl with oe := s.cfg.polOeOn }
      byteTrace := s.byteTrace ++ [.oeOn]
      pinTrace := s.pinTrace ++ [.set .oe s.cfg.polOeOn]
      seq := .idle
      responses := s.responses ++ [.ok] } ∧
    t.oeOn = true ∧ t.busy = false ∧ ∀ i, t.byteAt i = s.byteAt i

/-! ## Primitives of the hardware binding -/

/-- 42_pin_serial_primitives.md R161: the line becomes an output and its pad carries its level; the other lines keep their directions. -/
def Obligations.PindirDrivesTheLine : Prop :=
  ∀ (s : State) (line : Line), ∃ t, exec (.pindir line) s = .next t ∧
    t = { s with dir := t.dir, pinTrace := s.pinTrace ++ [.dirset line] } ∧
    t.pad line = some (s.lvl.get line) ∧ (∀ other, other ≠ line → t.dir.get other = s.dir.get other) ∧
    ∀ i, t.byteAt i = s.byteAt i

/-- 42_pin_serial_primitives.md R162, 45_panel_reference.md R182, R183: the line takes the level, the event is emitted also when the level
does not change, and the panel reacts to the clock's leading edge and the latch's assertion on a driven line, to nothing else. That an
undriven line carries no edge is the model's reading (log 8, DEDUCED). -/
def Obligations.PinsetSetsOneLevel : Prop :=
  ∀ (s : State) (line : Line) (level : Level), ∃ t, exec (.pinset line level) s = .next t ∧
    t = { s with lvl := t.lvl, panel := t.panel, pinTrace := s.pinTrace ++ [.set line level] } ∧
    t.lvl.get line = level ∧ (∀ other, other ≠ line → t.lvl.get other = s.lvl.get other) ∧
    (line = .sclk → s.pad .sclk = some s.cfg.sclkIdle → level = !s.cfg.sclkIdle →
      t.panel = { s.panel with chain := (s.lvl.sdata :: s.panel.chain).take s.panel.chain.length }) ∧
    (line = .lat → s.pad .lat = some (!s.cfg.polLatActive) → level = s.cfg.polLatActive →
      t.panel = { s.panel with latched := s.panel.rx }) ∧
    (¬(line = .sclk ∧ s.pad .sclk = some s.cfg.sclkIdle ∧ level = !s.cfg.sclkIdle) →
      ¬(line = .lat ∧ s.pad .lat = some (!s.cfg.polLatActive) ∧ level = s.cfg.polLatActive) → t.panel = s.panel) ∧
    ∀ i, t.byteAt i = s.byteAt i

/-- 42_pin_serial_primitives.md R163, R164, R165, R169: eight clock pulses, most significant bit first, for both transports; afterwards the
clock is idle and the data line carries bit 0. `BITN` afterwards, 0 for BITBANG and unchanged for HWSERIAL, is the model's choice (log 15,
DESIGN CHOICE). -/
def Obligations.SerbyteSendsEightBits : Prop :=
  ∀ (s : State) (b : Byte), ∃ t, exec (.serbyte b) s = .next t ∧
    t = { s with
      lvl := { s.lvl with sdata := b.getLsbD 0, sclk := s.cfg.sclkIdle }
      bitn := if s.cfg.transport = .bitbang then 0 else s.bitn
      pinTrace := t.pinTrace
      panel := t.panel } ∧
    t.pinTrace = s.pinTrace ++ [7, 6, 5, 4, 3, 2, 1, 0].flatMap (fun n =>
      [.set .sdata (b.getLsbD n), .set .sclk (!s.cfg.sclkIdle), .set .sclk s.cfg.sclkIdle]) ∧
    t.pinTrace.length = s.pinTrace.length + 24 ∧ t.clockIdle = true ∧ ∀ i, t.byteAt i = s.byteAt i

/-- 45_panel_reference.md R182 at the byte level: a byte sent over a driven, idle clock enters the chain as its newest byte and the oldest
byte is lost. -/
def Obligations.SentByteEntersTheChain : Prop :=
  ∀ (s : State) (b : Byte) (n : Nat), s.dir.sclk = .out → s.clockIdle = true → s.panel.chain.length = 8 * (n + 1) →
    ∃ t, exec (.serbyte b) s = .next t ∧ t.panel.rx = s.panel.rx.drop 1 ++ [b] ∧ t.panel.rx.length = n + 1

/-! ## The stream -/

/-- 20_memory.md R66: every index the engine computes is in the buffer, and the largest one is its last. -/
def Obligations.StreamStaysInTheBuffer : Prop :=
  ∀ (o : StreamOrder) (P : Nat), 1 ≤ P →
    (∀ (p : BitVec 2) (k : Nat), k < 16 * P → src o P p k ≤ 64 * P - 1) ∧ ∃ k, k < 16 * P ∧ src o P 3 k = 64 * P - 1

/-- 30_encoding.md R89: over the four phases the stream visits every index of the buffer exactly once, for both orders. -/
def Obligations.StreamIsABijection : Prop :=
  ∀ (o : StreamOrder) (P i : Nat), i < 64 * P →
    ∃ (p : BitVec 2) (k : Nat), k < 16 * P ∧ src o P p k = i ∧
      ∀ (q : BitVec 2) (l : Nat), l < 16 * P → src o P q l = i → q = p ∧ l = k

/-- 20_memory.md R52, R53 and 41_scan_sequence.md R133: phase p streams exactly bytes of its four buffer rows p, p+4, p+8, p+12; it begins
with the first byte of region 3 and ends with the last plain byte. -/
def Obligations.PhaseStreamsItsBufferRows : Prop :=
  ∀ (o : StreamOrder) (P : Nat) (p : BitVec 2), 1 ≤ P →
    (∀ k, k < 16 * P → ∃ m, m < 4 ∧ src o P p k / (4 * P) = p.toNat + 4 * m) ∧
    src o P p 0 = phaseBase P p + 48 * P ∧ src o P p (16 * P - 1) = phaseBase P p + 4 * (P - 1) + 3

/-! ## Reset -/

/-- 70_reset_and_hazards.md R230, R231, R232, 10_state.md R41: what a reset leaves, from any state, a held reset too, for a valid and for an
invalid topology. The frame buffer, the panel and the configuration are not touched (10_state.md R39, 20_memory.md R50, R236,
45_panel_reference.md R181). That the records of the ports are emptied is the model's choice (log 12), and that the words at the port stay is
too (log 1). -/
def Obligations.ResetSequenceLoadsTheState : Prop :=
  ∀ (s : State) (w h : Nat) (rest : List EnvAction), s.env = .reset w h :: rest → ∃ t, step s = .next t ∧
    t.panelsWide = w ∧ t.panelsHigh = h ∧ t.seq = .idle ∧ t.k = 0 ∧ t.byteTrace = [] ∧
    t.rst = false ∧ t.responses = [] ∧ t.fbReads = [] ∧
    (1 ≤ w ∧ 1 ≤ h → t.failed = false ∧ t.phase = s.cfg.phaseReset ∧ (∀ line, t.dir.get line = .out) ∧
      t.lvl.oe = (!s.cfg.polOeOn) ∧ t.lvl.a = false ∧ t.lvl.b = false ∧ t.lvl.sclk = s.cfg.sclkIdle ∧ t.lvl.sdata = false ∧
      t.lvl.lat = (!s.cfg.polLatActive) ∧
      t.pinTrace = [.dirset .oe, .dirset .a, .dirset .b, .dirset .sclk, .dirset .sdata, .dirset .lat]) ∧
    (w = 0 ∨ h = 0 → t.failed = true ∧ t.phase = 0 ∧ (∀ line, t.dir.get line = .inward) ∧ t.pinTrace = []) ∧
    t.cfg = s.cfg ∧ t.panel = s.panel ∧ t.cmds = s.cmds ∧ t.env = rest ∧ ∀ i, t.byteAt i = s.byteAt i

/-- 10_state.md R41 for the state the model starts in: the values the spec gives for a valid topology. -/
def Obligations.ResetStateHasTheSpecsValues : Prop :=
  ∀ (c : Config) (w h : Nat), topologyValid w h = true → ∃ s, s = State.afterReset c w h ∧
    s.failed = false ∧ s.phase = c.phaseReset ∧ s.seq = .idle ∧ s.busy = false ∧ s.k = 0 ∧ (∀ line, s.dir.get line = .out) ∧
    s.oeOn = false ∧ s.sel = 0 ∧ s.clockIdle = true ∧ s.lvl.sdata = false ∧ s.latAsserted = false ∧
    s.byteTrace = [] ∧ s.pinTrace = allLines.map .dirset ∧ s.mem = []

/-- 70_reset_and_hazards.md R233, with the model's choices of logs 1 and 9: under a held reset no line is driven, no command is accepted, and
the engine does nothing until the reset ends (log 9). That the words waiting at the port stay is the DESIGN CHOICE of log 1. -/
def Obligations.HeldResetDrivesNothing : Prop :=
  (∀ (s : State) (rest : List EnvAction), s.env = .holdReset :: rest → ∃ t, step s = .next t ∧
    t.rst = true ∧ (∀ line, t.pad line = none) ∧ t.cmdReady = false ∧ t.cmds = s.cmds ∧ t.env = rest) ∧
  (∀ s : State, s.runs → s.rst = true → step s = .next s.taken) ∧
  (∀ s t : State, s.rst = true → step s = .next t → t.rst = false → ∃ w h rest, s.env = .reset w h :: rest)

/-! ## Invariants -/

/-- The invariants hold right after reset, for every configuration and valid topology (10_state.md R41). -/
def Obligations.InvariantsHoldAtReset : Prop :=
  ∀ (c : Config) (w h : Nat), topologyValid w h = true →
    Inv (State.afterReset c w h) ∧ PanelInv (State.afterReset c w h) ∧ OrderInv (State.afterReset c w h)

/-- Every step, of the engine or of the outside, keeps the invariant of the engine: 41_scan_sequence.md R143, 10_state.md R22, R25, R29, and
the canonical form of the frame buffer. -/
def Obligations.EveryStepKeepsTheInvariant : Prop :=
  ∀ s t : State, Inv s → step s = .next t → Inv t

/-- 41_scan_sequence.md R145 for every run, with the host writing the buffer at any moment: what the latches hold is what was sent since the
row was selected, and the code on the lines is the one selected then. -/
def Obligations.EveryStepKeepsThePanelInvariant : Prop :=
  ∀ s t : State, Inv s → PanelInv s → step s = .next t → PanelInv t

/-- 70_reset_and_hazards.md R242: every step keeps the order of line changes the panel relies on. -/
def Obligations.EveryStepKeepsTheLineOrder : Prop :=
  ∀ s t : State, Inv s → OrderInv s → step s = .next t → OrderInv t

/-- 42_pin_serial_primitives.md R166: at every step boundary the byte-level trace is the image of the pin-level trace. -/
def Obligations.TracesStayRelated : Prop :=
  (∀ (c : Config) (w h : Nat), readPins c (State.afterReset c w h).pinTrace = PinReader.start) ∧
  (∀ s t : State, (readPins s.cfg s.pinTrace).bits = [] → (readPins s.cfg s.pinTrace).events = s.byteTrace → step s = .next t →
    (readPins t.cfg t.pinTrace).bits = [] ∧ abstractTrace t.cfg t.pinTrace = t.byteTrace)

/-- 41_scan_sequence.md R140: every micro-operation is always enabled in its position; no run stops. -/
def Obligations.TheMachineNeverStops : Prop :=
  ∀ s : State, Inv s → ∃ t, step s = .next t

/-- 41_scan_sequence.md R143a, 10_state.md R41 and 45_panel_reference.md R185: no LED is lit from the completion of `OEOFF` to the start of
`OEON`, and none from reset to the first `OEON`: right after reset, and in every state a step keeps, as long as the byte-level trace holds no
`OE(on)`. -/
def Obligations.NoLedIsLitInsideAScan : Prop :=
  (∀ (s : State) (j r xl : Nat), Inv s → s.seq.dark = true → s.ledLit j r xl = false) ∧
  (∀ (c : Config) (w h j r xl : Nat), (State.afterReset c w h).ledLit j r xl = false ∧ DarkBeforeOeon (State.afterReset c w h)) ∧
  (∀ s t : State, DarkBeforeOeon s → step s = .next t → DarkBeforeOeon t) ∧
  (∀ (s : State) (j r xl : Nat), DarkBeforeOeon s → s.working = true → ByteEvent.oeOn ∉ s.byteTrace → s.ledLit j r xl = false)

/-- 41_scan_sequence.md R137, 70_reset_and_hazards.md R241, R247, `T_LATCH_MIN` as the configuration has it (log 19): however an
implementation stamps the events in whole microseconds, if it keeps the duty of `HOLD` every latch pulse lasts at least `T_LATCH_MIN`. The
stamps and `T_LATCH_MIN` are whole microseconds by the DESIGN CHOICE of log 23, unsafe for a claim about exact times. -/
def Obligations.LatchPulseLastsTheHoldTime : Prop :=
  ∀ (s : State) (timed : TimedTrace), s.working = true → OrderInv s → timed.map Prod.snd = s.pinTrace → keepsHoldTime s.cfg timed →
    latchPulsesWide s.cfg none timed

/-! ## Rules over all operations -/

/-- 10_state.md R21: only `NEXT` and `SETPH` write `PHASE`; in particular no micro-operation and no scan does. -/
def Obligations.OnlyNextAndSetphWriteThePhase : Prop :=
  ∀ (i : Instr) (s t : State), exec i s = .next t → t.phase ≠ s.phase → i = .next ∨ ∃ n, i = .setph n

/-- 20_memory.md R61, 10_state.md R22, R36, R39: no operation writes the frame buffer, `FAILED`, the topology, the configuration, the reset
input or the waiting inputs. -/
def Obligations.NoOperationWritesMemoryOrConfiguration : Prop :=
  ∀ (i : Instr) (s t : State), exec i s = .next t →
    t.mem = s.mem ∧ (∀ a, t.byteAt a = s.byteAt a) ∧ t.failed = s.failed ∧ t.panelsWide = s.panelsWide ∧
    t.panelsHigh = s.panelsHigh ∧ t.cfg = s.cfg ∧ t.rst = s.rst ∧ t.cmds = s.cmds ∧ t.env = s.env

/-- 10_state.md R25, R26, R27, R29: the writers of `SR`, `K`, `BITN` and `DIR`. -/
def Obligations.DataRegistersHaveTheirWriters : Prop :=
  ∀ (i : Instr) (s t : State), exec i s = .next t →
    (t.sr ≠ s.sr → i = .fetch) ∧ (t.k ≠ s.k → i = .rowsel ∨ i = .send) ∧
    (t.bitn ≠ s.bitn → i = .send ∨ ∃ b, i = .serbyte b) ∧ (t.dir ≠ s.dir → ∃ line, i = .pindir line) ∧
    (t.fbReads ≠ s.fbReads → i = .fetch)

/-- 41_scan_sequence.md R143d and the table of 30_encoding.md R94: which operations drive which line. -/
def Obligations.LinesHaveTheirDrivers : Prop :=
  ∀ (i : Instr) (s t : State), exec i s = .next t → (∀ line level, i ≠ .pinset line level) →
    (t.lvl.oe ≠ s.lvl.oe → i = .oeoff ∨ i = .oeon) ∧ (t.sel ≠ s.sel → i = .rowsel) ∧
    (t.lvl.sclk ≠ s.lvl.sclk → i = .send ∨ ∃ b, i = .serbyte b) ∧
    (t.lvl.sdata ≠ s.lvl.sdata → i = .send ∨ ∃ b, i = .serbyte b) ∧
    (t.lvl.lat ≠ s.lvl.lat → i = .latchhi ∨ i = .latchlo)

/-- 10_state.md R40: the traces are append-only. -/
def Obligations.TracesOnlyGrow : Prop :=
  ∀ (i : Instr) (s t : State), exec i s = .next t →
    s.byteTrace <+: t.byteTrace ∧ s.pinTrace <+: t.pinTrace ∧ s.responses <+: t.responses ∧ s.fbReads <+: t.fbReads

/-- 10_state.md R35, R40, 45_panel_reference.md R180: no operation reads the traces or the panel: with other traces and another panel it
does the same to everything else. -/
def Obligations.TracesAndPanelAreNeverRead : Prop :=
  ∀ (i : Instr) (s t : State) (bytes : List ByteEvent) (pins : List PinEvent) (panel : Panel), exec i s = .next t →
    ∃ u, exec i { s with byteTrace := bytes, pinTrace := pins, panel := panel } = .next u ∧
      { u with byteTrace := t.byteTrace, pinTrace := t.pinTrace, panel := t.panel } = t

/-- 20_memory.md R61, R62, 70_reset_and_hazards.md R233: a step changes a byte of the frame buffer only when the host writes that byte, or
when a teardown ends the buffer's life (log 9). -/
def Obligations.OnlyTheHostChangesTheBuffer : Prop :=
  ∀ (s t : State) (a : Nat), step s = .next t → t.byteAt a ≠ s.byteAt a →
    (∃ rest, s.env = .write a (t.byteAt a) :: rest) ∨ ∃ rest, s.env = .holdReset :: rest

/-- 20_memory.md R60, R68, R71, 41_scan_sequence.md R144: a host write is seen by the next `FETCH` of that byte and by no other byte; outside
the buffer it is a no-op (R66, log 11). -/
def Obligations.HostWriteIsSeenByTheNextFetch : Prop :=
  (∀ (s : State) (i : Nat) (v : Byte) (rest : List EnvAction), s.env = .write i v :: rest → i < s.fbLen →
    ∃ t, step s = .next t ∧ t.byteAt i = v ∧ (∀ j, j ≠ i → t.byteAt j = s.byteAt j) ∧
      t = { s with env := rest, mem := t.mem } ∧
      (s.fetchIndex = i → ∃ u, exec .fetch t = .next u ∧ u.sr = v)) ∧
  (∀ (s : State) (i : Nat) (v : Byte) (rest : List EnvAction), s.env = .write i v :: rest → s.fbLen ≤ i →
    step s = .next { s with env := rest })

/-! ## Whole scans -/

/-- 41_scan_sequence.md R140, R141, R142, 42_pin_serial_primitives.md R170, 45_panel_reference.md R182, R183: an undisturbed `SCAN` runs to
completion in `6 + 2 × STREAM_LEN` micro-operations after its issue; its traces, its reads, what it leaves behind and what it leaves
unchanged. -/
def Obligations.ScanRunsToCompletion : Prop :=
  ∀ (s : State) (rest : List (BitVec 8)), Inv s → s.ready = true → s.env = [] → s.cmds = 0x10#8 :: rest →
    ∃ t : State, Sys2Proof.core.run s.scanSteps s = .next t ∧
      t.byteTrace = s.byteTrace ++ scanEvents s.rowselCode s.scanBytes ∧
      t.pinTrace = s.pinTrace ++ scanPinEvents s.cfg s.rowselCode s.scanBytes ∧
      t.pinTrace.length = s.pinTrace.length + (384 * s.panels + 6) + 1 ∧
      t.fbReads = s.fbReads ++ s.scanIndices ∧ t.responses = s.responses ++ [.ok] ∧ t.cmds = rest ∧
      t.phase = s.phase ∧ t.failed = s.failed ∧ t.dir = s.dir ∧ t.mem = s.mem ∧ (∀ i, t.byteAt i = s.byteAt i) ∧
      t.panelsWide = s.panelsWide ∧ t.panelsHigh = s.panelsHigh ∧ t.cfg = s.cfg ∧ t.env = [] ∧ t.rst = false ∧
      t.seq = .idle ∧ t.oeOn = true ∧ t.latAsserted = false ∧ t.clockIdle = true ∧ t.sel = s.rowselCode ∧
      t.k = s.streamLen ∧ s.scanBytes.getLast? = some t.sr ∧ t.lvl.sdata = t.sr.getLsbD 0 ∧
      (s.panelFits → t.panelFits ∧ t.panel.latched = s.scanBytes)

/-- 40_host_commands.md R116, the frame law: from any phase, `SCAN; NEXT` four times scans the four phases in order, reads every index of the
buffer exactly once, sends `FB_LEN` bytes and ends at the phase it began with. -/
def Obligations.FrameReadsEveryByteOnce : Prop :=
  ∀ (s : State) (rest : List (BitVec 8)), Inv s → s.ready = true → s.env = [] →
    s.cmds = [0x10#8, 0x20#8, 0x10#8, 0x20#8, 0x10#8, 0x20#8, 0x10#8, 0x20#8] ++ rest →
    ∃ t : State, Sys2Proof.core.run (4 * (s.scanSteps + 1)) s = .next t ∧ t.phase = s.phase ∧ t.seq = .idle ∧ t.cmds = rest ∧
      (∃ reads, t.fbReads = s.fbReads ++ reads ∧ reads.Perm (List.range s.fbLen)) ∧
      (∃ events, t.byteTrace = s.byteTrace ++ events ∧ events.countP ByteEvent.isTx = s.fbLen ∧
        events = [s.phase, s.phase + 1, s.phase + 2, s.phase + 3].flatMap fun p =>
          scanEvents (s.atPhase p).rowselCode (s.atPhase p).scanBytes) ∧
      t.responses = s.responses ++ List.replicate 8 .ok

/-- 45_panel_reference.md R188, R189, the end-to-end property of one scan: on a panel that fits, wired in the engine's order, decoding the
engine's codes correctly and lit by a 1, after an undisturbed `SCAN` exactly those pixels are lit that belong to the phase's row group
and whose bit is 1 in the frame buffer. The pixel's place in the buffer is the spec's own reading of the mapper (R58, log 17). -/
def Obligations.ScanLightsThePixelsOfItsPhase : Prop :=
  ∀ (s : State) (rest : List (BitVec 8)), Inv s → s.ready = true → s.env = [] → s.cmds = 0x10#8 :: rest →
    s.panelFits → s.cfg.panelOrder = s.cfg.streamOrder → cyclicMapping s.cfg = true → s.cfg.panelLitLevel = true →
    ∃ t : State, Sys2Proof.core.run s.scanSteps s = .next t ∧ t.seq = .idle ∧
      ∀ x y, s.onCanvas x y = true →
        (t.pixelLit x y = true ↔ y % 4 = (s.phase.toNat + 1) % 4 ∧ s.pixelStored x y = true)

/-! ## The writers' mapper (context) -/

/-- 20_memory.md R56, R57: the row remap is a bijection that permutes rows inside aligned groups of four. -/
def Obligations.RowRemapIsABijection : Prop :=
  ∀ y : Nat, unmapRow (remapRow y) = y ∧ remapRow (unmapRow y) = y ∧ remapRow y / 4 = y / 4 ∧ remapRow y / 16 = y / 16 ∧
    (remapRow y + 1) % 4 = y % 4

/-- 20_memory.md R54, R58, with the spec's own reading of `bx` and `by` (log 17): every pixel of the canvas has an index in the buffer and a
bit of its own. -/
def Obligations.PixelsHaveDistinctBits : Prop :=
  ∀ W H x y : Nat, x < 32 * W → y < 16 * H →
    pixelIndex W (W * H) x y < 64 * (W * H) ∧ pixelBit W x y < 8 ∧ pixelMask W x y = BitVec.twoPow 8 (pixelBit W x y) ∧
    ∀ x' y', x' < 32 * W → y' < 16 * H → pixelIndex W (W * H) x' y' = pixelIndex W (W * H) x y →
      pixelBit W x' y' = pixelBit W x y → x' = x ∧ y' = y

/-- 20_memory.md R53, R56, 30_encoding.md R89 and the table of 95_test_vectors.md 2.8: a pixel's byte is streamed at one place of one phase,
the phase before the group of its row. The pixel's place rests on `bx` and `by` of R58, PRESUMED: the spec's own reading (log 17). -/
def Obligations.PixelIsStreamedInItsPhase : Prop :=
  ∀ (o : StreamOrder) (W H x y : Nat), x < 32 * W → y < 16 * H →
    ∃ (p : BitVec 2) (k : Nat), p.toNat = remapRow y % 4 ∧ (p.toNat + 1) % 4 = y % 4 ∧ k < 16 * (W * H) ∧
      src o (W * H) p k = pixelIndex W (W * H) x y ∧
      ∀ (q : BitVec 2) (l : Nat), l < 16 * (W * H) → src o (W * H) q l = pixelIndex W (W * H) x y → q = p ∧ l = k

/-- 20_memory.md R54, R59, R62, R68 and the round trip of 95_test_vectors.md V2: a host's pixel write sets that pixel's bit and no other
pixel's; outside the canvas it writes nothing. Where a pixel lies in the buffer is 20_memory.md R56 to R58, `bx` and `by` of R58 PRESUMED: the
spec's own reading (log 17). -/
def Obligations.PixelWriteSetsOnePixel : Prop :=
  (∀ (s : State) (x y : Nat) (lit : Level) (rest : List EnvAction), s.onCanvas x y = true → s.env = s.pixelWrite x y lit ++ rest →
    ∃ t, step s = .next t ∧ t.env = rest ∧ t.pixelStored x y = lit ∧
      ∀ x' y', s.onCanvas x' y' = true → ¬(x' = x ∧ y' = y) → t.pixelStored x' y' = s.pixelStored x' y') ∧
  (∀ (s : State) (x y : Nat) (lit : Level), s.onCanvas x y = false → s.pixelWrite x y lit = [])

/-! ## The address port -/

/-- 00_scope.md R7, R9, 10_state.md R25, R34: when the topology fits `AW` every index of the stream and the next `FETCH`'s go over `fb_addr`
unchanged, and `AW - 1` bits hold `K`; the default `AW` is the smallest that fits. That no step depends on `AW` is the model's
reading of D21 (log 20). -/
def Obligations.AddressPortHoldsEveryIndex : Prop :=
  (∀ s : State, s.addressFits = true →
    (∀ (p : BitVec 2) (k : Nat), k < s.streamLen → src s.cfg.streamOrder s.panels p k < 2 ^ s.cfg.addressWidth) ∧
    (s.k < s.streamLen → s.fbAddr.toNat = s.fetchIndex) ∧ (1 ≤ s.panels → s.streamLen < 2 ^ (s.cfg.addressWidth - 1))) ∧
  (∀ P : Nat, (Config.defaultFor P).addressWidth = leastAddressWidth P ∧ 64 * P ≤ 2 ^ leastAddressWidth P ∧
    ∀ n, 64 * P ≤ 2 ^ n → leastAddressWidth P ≤ n) ∧
  (∀ w h : Nat, (State.afterReset (Config.defaultFor (w * h)) w h).addressFits = true) ∧ Config.defaultFor 1 = Config.default

/-! ## A chain of another length -/

/-- The model's reading of a chain that does not fit the topology, which U11 leaves outside the spec's model (log 24, DEDUCED from
45_panel_reference.md R181, R182, R191, and a DESIGN CHOICE in that `RX` is every whole byte of the chain): in a chain of whole bytes the bytes
sent push out as many of the oldest, so in a shorter chain the first bytes fall off and in a longer one earlier bytes are shifted along; and of
the latches the panels 0 .. P-1 show the last `16 × P` bytes, whatever stands before them. -/
def Obligations.ChainOfAnotherLengthShiftsAlong : Prop :=
  (∀ (s : State) (bytes : List Byte) (n : Nat), s.dir.sclk = .out → s.clockIdle = true → s.panel.chain.length = 8 * n →
    (bytes.foldl (fun s b => serbyte b s) s).panel.rx = (s.panel.rx ++ bytes).drop bytes.length ∧
    (bytes.foldl (fun s b => serbyte b s) s).panel.rx.length = n ∧
    (bytes.foldl (fun s b => serbyte b s) s).panel.latched = s.panel.latched) ∧
  (∀ (s : State) (b : Byte), exec (.serbyte b) s = .next (serbyte b s)) ∧
  (∀ (s : State) (older bytes : List Byte) (j n : Nat), s.panel.latched = older ++ bytes → bytes.length = 16 * s.panels →
    j < s.panels → n < 16 → bytes[16 * j + n]? = some (s.latchByte j n))
end

