-- ==== Sys2Proof/Laws/Bits.lean ====
section
/-! SUPPORT. Sys2Proof/Laws/Bits.lean: bytes on the line and back (30_encoding.md R93, 42_pin_serial_primitives.md R166, 45_panel_reference.md R181). -/

namespace Sys2Proof.Machine

theorem byteBits_eq (o : SerBitOrder) (b : Byte) :
    byteBits o b = [b.getLsbD 7, b.getLsbD 6, b.getLsbD 5, b.getLsbD 4, b.getLsbD 3, b.getLsbD 2, b.getLsbD 1, b.getLsbD 0] := by
  cases o; rfl

@[simp] theorem byteBits_length (o : SerBitOrder) (b : Byte) : (byteBits o b).length = 8 := by
  cases o; rfl

@[simp] theorem clocksPerByte_count (n : ClocksPerByte) : n.count = 8 := by
  cases n
  rfl

/-- A byte has as many bits as clock pulses (R93). -/
theorem byteBits_length_count (o : SerBitOrder) (n : ClocksPerByte) (b : Byte) : (byteBits o b).length = n.count := by simp

/-- The byte of the bits sent is the byte sent. -/
theorem byteOf_byteBits (o : SerBitOrder) (b : Byte) : byteOf (byteBits o b) = b := by
  cases o
  revert b
  decide

/-- The bits of one byte in front of others are that byte in front of theirs. -/
theorem bytesOf_byteBits_append (o : SerBitOrder) (b : Byte) (bits : List Level) :
    bytesOf (byteBits o b ++ bits) = b :: bytesOf bits := by
  have h := byteOf_byteBits o b
  rw [byteBits_eq] at h ⊢
  simp only [List.cons_append, List.nil_append, bytesOf, h]

/-- The bits of a list of bytes are those bytes. -/
theorem bytesOf_flatMap (o : SerBitOrder) (bs : List Byte) : bytesOf (bs.flatMap (byteBits o)) = bs := by
  induction bs with
  | nil => rfl
  | cons b bs ih => rw [List.flatMap_cons, bytesOf_byteBits_append, ih]

/-- A bijective code map is injective (R88, R184). -/
theorem applyCodes_injective {c : Codes} (h : c.bijective = true) {p q : BitVec 2} (hpq : applyCodes c p = applyCodes c q) :
    p = q := by
  obtain ⟨x0, x1, x2, x3⟩ := c
  simp only [Codes.bijective, List.nodup_cons, List.mem_cons, not_or, decide_eq_true_eq] at h
  have cases4 : ∀ r : BitVec 2, r = 0 ∨ r = 1 ∨ r = 2 ∨ r = 3 := by decide
  rcases cases4 p with rfl | rfl | rfl | rfl <;> rcases cases4 q with rfl | rfl | rfl | rfl <;>
    first | rfl | (simp [applyCodes] at hpq; simp_all)

/-- The two bits of a code, B above A (R30, R132). -/
theorem code_bits (c : BitVec 2) : BitVec.ofBool (c.getLsbD 1) ++ BitVec.ofBool (c.getLsbD 0) = c := by
  revert c
  decide

theorem position_code_ofCode (p : Position) : Position.ofCode p.code = some p := by
  cases p <;> rfl

end Sys2Proof.Machine
end

