-- ==== Sys2Proof/Laws/State.lean ====
section
/-! SUPPORT. Sys2Proof/Laws/State.lean: one lemma a field and a view for each update of State, so that no proof unfolds an update. -/

namespace Sys2Proof.Machine

/-! ## `goTo` -/

@[simp] theorem goTo_cfg (p : Position) (s : State) : (goTo p s).cfg = s.cfg := rfl
@[simp] theorem goTo_panelsWide (p : Position) (s : State) : (goTo p s).panelsWide = s.panelsWide := rfl
@[simp] theorem goTo_panelsHigh (p : Position) (s : State) : (goTo p s).panelsHigh = s.panelsHigh := rfl
@[simp] theorem goTo_phase (p : Position) (s : State) : (goTo p s).phase = s.phase := rfl
@[simp] theorem goTo_failed (p : Position) (s : State) : (goTo p s).failed = s.failed := rfl
@[simp] theorem goTo_seq (p : Position) (s : State) : (goTo p s).seq = p := rfl
@[simp] theorem goTo_k (p : Position) (s : State) : (goTo p s).k = s.k := rfl
@[simp] theorem goTo_bitn (p : Position) (s : State) : (goTo p s).bitn = s.bitn := rfl
@[simp] theorem goTo_sr (p : Position) (s : State) : (goTo p s).sr = s.sr := rfl
@[simp] theorem goTo_lvl (p : Position) (s : State) : (goTo p s).lvl = s.lvl := rfl
@[simp] theorem goTo_dir (p : Position) (s : State) : (goTo p s).dir = s.dir := rfl
@[simp] theorem goTo_mem (p : Position) (s : State) : (goTo p s).mem = s.mem := rfl
@[simp] theorem goTo_panel (p : Position) (s : State) : (goTo p s).panel = s.panel := rfl
@[simp] theorem goTo_rst (p : Position) (s : State) : (goTo p s).rst = s.rst := rfl
@[simp] theorem goTo_cmds (p : Position) (s : State) : (goTo p s).cmds = s.cmds := rfl
@[simp] theorem goTo_env (p : Position) (s : State) : (goTo p s).env = s.env := rfl
@[simp] theorem goTo_byteTrace (p : Position) (s : State) : (goTo p s).byteTrace = s.byteTrace := rfl
@[simp] theorem goTo_pinTrace (p : Position) (s : State) : (goTo p s).pinTrace = s.pinTrace := rfl
@[simp] theorem goTo_responses (p : Position) (s : State) : (goTo p s).responses = s.responses := rfl
@[simp] theorem goTo_fbReads (p : Position) (s : State) : (goTo p s).fbReads = s.fbReads := rfl
@[simp] theorem goTo_resetEra (p : Position) (s : State) : (goTo p s).resetEra = s.resetEra := rfl
@[simp] theorem goTo_memEra (p : Position) (s : State) : (goTo p s).memEra = s.memEra := rfl
@[simp] theorem goTo_panels (p : Position) (s : State) : (goTo p s).panels = s.panels := rfl
@[simp] theorem goTo_fbLen (p : Position) (s : State) : (goTo p s).fbLen = s.fbLen := rfl
@[simp] theorem goTo_streamLen (p : Position) (s : State) : (goTo p s).streamLen = s.streamLen := rfl
@[simp] theorem goTo_working (p : Position) (s : State) : (goTo p s).working = s.working := rfl
@[simp] theorem goTo_oeOn (p : Position) (s : State) : (goTo p s).oeOn = s.oeOn := rfl
@[simp] theorem goTo_latAsserted (p : Position) (s : State) : (goTo p s).latAsserted = s.latAsserted := rfl
@[simp] theorem goTo_clockIdle (p : Position) (s : State) : (goTo p s).clockIdle = s.clockIdle := rfl
@[simp] theorem goTo_sel (p : Position) (s : State) : (goTo p s).sel = s.sel := rfl
@[simp] theorem goTo_rowselCode (p : Position) (s : State) : (goTo p s).rowselCode = s.rowselCode := rfl
@[simp] theorem goTo_fetchIndex (p : Position) (s : State) : (goTo p s).fetchIndex = s.fetchIndex := rfl
@[simp] theorem goTo_byteAt (p : Position) (s : State) (j : Nat) : (goTo p s).byteAt j = s.byteAt j := rfl

/-! ## `emit` -/

@[simp] theorem emit_cfg (e : ByteEvent) (s : State) : (emit e s).cfg = s.cfg := rfl
@[simp] theorem emit_panelsWide (e : ByteEvent) (s : State) : (emit e s).panelsWide = s.panelsWide := rfl
@[simp] theorem emit_panelsHigh (e : ByteEvent) (s : State) : (emit e s).panelsHigh = s.panelsHigh := rfl
@[simp] theorem emit_phase (e : ByteEvent) (s : State) : (emit e s).phase = s.phase := rfl
@[simp] theorem emit_failed (e : ByteEvent) (s : State) : (emit e s).failed = s.failed := rfl
@[simp] theorem emit_seq (e : ByteEvent) (s : State) : (emit e s).seq = s.seq := rfl
@[simp] theorem emit_k (e : ByteEvent) (s : State) : (emit e s).k = s.k := rfl
@[simp] theorem emit_bitn (e : ByteEvent) (s : State) : (emit e s).bitn = s.bitn := rfl
@[simp] theorem emit_sr (e : ByteEvent) (s : State) : (emit e s).sr = s.sr := rfl
@[simp] theorem emit_lvl (e : ByteEvent) (s : State) : (emit e s).lvl = s.lvl := rfl
@[simp] theorem emit_dir (e : ByteEvent) (s : State) : (emit e s).dir = s.dir := rfl
@[simp] theorem emit_mem (e : ByteEvent) (s : State) : (emit e s).mem = s.mem := rfl
@[simp] theorem emit_panel (e : ByteEvent) (s : State) : (emit e s).panel = s.panel := rfl
@[simp] theorem emit_rst (e : ByteEvent) (s : State) : (emit e s).rst = s.rst := rfl
@[simp] theorem emit_cmds (e : ByteEvent) (s : State) : (emit e s).cmds = s.cmds := rfl
@[simp] theorem emit_env (e : ByteEvent) (s : State) : (emit e s).env = s.env := rfl
@[simp] theorem emit_byteTrace (e : ByteEvent) (s : State) : (emit e s).byteTrace = s.byteTrace ++ [e] := rfl
@[simp] theorem emit_pinTrace (e : ByteEvent) (s : State) : (emit e s).pinTrace = s.pinTrace := rfl
@[simp] theorem emit_responses (e : ByteEvent) (s : State) : (emit e s).responses = s.responses := rfl
@[simp] theorem emit_fbReads (e : ByteEvent) (s : State) : (emit e s).fbReads = s.fbReads := rfl
@[simp] theorem emit_resetEra (e : ByteEvent) (s : State) : (emit e s).resetEra = s.resetEra := rfl
@[simp] theorem emit_memEra (e : ByteEvent) (s : State) : (emit e s).memEra = s.memEra := rfl
@[simp] theorem emit_panels (e : ByteEvent) (s : State) : (emit e s).panels = s.panels := rfl
@[simp] theorem emit_fbLen (e : ByteEvent) (s : State) : (emit e s).fbLen = s.fbLen := rfl
@[simp] theorem emit_streamLen (e : ByteEvent) (s : State) : (emit e s).streamLen = s.streamLen := rfl
@[simp] theorem emit_working (e : ByteEvent) (s : State) : (emit e s).working = s.working := rfl
@[simp] theorem emit_busy (e : ByteEvent) (s : State) : (emit e s).busy = s.busy := rfl
@[simp] theorem emit_cmdReady (e : ByteEvent) (s : State) : (emit e s).cmdReady = s.cmdReady := rfl
@[simp] theorem emit_oeOn (e : ByteEvent) (s : State) : (emit e s).oeOn = s.oeOn := rfl
@[simp] theorem emit_latAsserted (e : ByteEvent) (s : State) : (emit e s).latAsserted = s.latAsserted := rfl
@[simp] theorem emit_clockIdle (e : ByteEvent) (s : State) : (emit e s).clockIdle = s.clockIdle := rfl
@[simp] theorem emit_sel (e : ByteEvent) (s : State) : (emit e s).sel = s.sel := rfl
@[simp] theorem emit_rowselCode (e : ByteEvent) (s : State) : (emit e s).rowselCode = s.rowselCode := rfl
@[simp] theorem emit_fetchIndex (e : ByteEvent) (s : State) : (emit e s).fetchIndex = s.fetchIndex := rfl
@[simp] theorem emit_byteAt (e : ByteEvent) (s : State) (j : Nat) : (emit e s).byteAt j = s.byteAt j := rfl

/-! ## `emitPin` -/

@[simp] theorem emitPin_cfg (e : PinEvent) (s : State) : (emitPin e s).cfg = s.cfg := rfl
@[simp] theorem emitPin_panelsWide (e : PinEvent) (s : State) : (emitPin e s).panelsWide = s.panelsWide := rfl
@[simp] theorem emitPin_panelsHigh (e : PinEvent) (s : State) : (emitPin e s).panelsHigh = s.panelsHigh := rfl
@[simp] theorem emitPin_phase (e : PinEvent) (s : State) : (emitPin e s).phase = s.phase := rfl
@[simp] theorem emitPin_failed (e : PinEvent) (s : State) : (emitPin e s).failed = s.failed := rfl
@[simp] theorem emitPin_seq (e : PinEvent) (s : State) : (emitPin e s).seq = s.seq := rfl
@[simp] theorem emitPin_k (e : PinEvent) (s : State) : (emitPin e s).k = s.k := rfl
@[simp] theorem emitPin_bitn (e : PinEvent) (s : State) : (emitPin e s).bitn = s.bitn := rfl
@[simp] theorem emitPin_sr (e : PinEvent) (s : State) : (emitPin e s).sr = s.sr := rfl
@[simp] theorem emitPin_lvl (e : PinEvent) (s : State) : (emitPin e s).lvl = s.lvl := rfl
@[simp] theorem emitPin_dir (e : PinEvent) (s : State) : (emitPin e s).dir = s.dir := rfl
@[simp] theorem emitPin_mem (e : PinEvent) (s : State) : (emitPin e s).mem = s.mem := rfl
@[simp] theorem emitPin_panel (e : PinEvent) (s : State) : (emitPin e s).panel = s.panel := rfl
@[simp] theorem emitPin_rst (e : PinEvent) (s : State) : (emitPin e s).rst = s.rst := rfl
@[simp] theorem emitPin_cmds (e : PinEvent) (s : State) : (emitPin e s).cmds = s.cmds := rfl
@[simp] theorem emitPin_env (e : PinEvent) (s : State) : (emitPin e s).env = s.env := rfl
@[simp] theorem emitPin_byteTrace (e : PinEvent) (s : State) : (emitPin e s).byteTrace = s.byteTrace := rfl
@[simp] theorem emitPin_pinTrace (e : PinEvent) (s : State) : (emitPin e s).pinTrace = s.pinTrace ++ [e] := rfl
@[simp] theorem emitPin_responses (e : PinEvent) (s : State) : (emitPin e s).responses = s.responses := rfl
@[simp] theorem emitPin_fbReads (e : PinEvent) (s : State) : (emitPin e s).fbReads = s.fbReads := rfl
@[simp] theorem emitPin_resetEra (e : PinEvent) (s : State) : (emitPin e s).resetEra = s.resetEra := rfl
@[simp] theorem emitPin_memEra (e : PinEvent) (s : State) : (emitPin e s).memEra = s.memEra := rfl
@[simp] theorem emitPin_panels (e : PinEvent) (s : State) : (emitPin e s).panels = s.panels := rfl
@[simp] theorem emitPin_fbLen (e : PinEvent) (s : State) : (emitPin e s).fbLen = s.fbLen := rfl
@[simp] theorem emitPin_streamLen (e : PinEvent) (s : State) : (emitPin e s).streamLen = s.streamLen := rfl
@[simp] theorem emitPin_working (e : PinEvent) (s : State) : (emitPin e s).working = s.working := rfl
@[simp] theorem emitPin_busy (e : PinEvent) (s : State) : (emitPin e s).busy = s.busy := rfl
@[simp] theorem emitPin_cmdReady (e : PinEvent) (s : State) : (emitPin e s).cmdReady = s.cmdReady := rfl
@[simp] theorem emitPin_oeOn (e : PinEvent) (s : State) : (emitPin e s).oeOn = s.oeOn := rfl
@[simp] theorem emitPin_latAsserted (e : PinEvent) (s : State) : (emitPin e s).latAsserted = s.latAsserted := rfl
@[simp] theorem emitPin_clockIdle (e : PinEvent) (s : State) : (emitPin e s).clockIdle = s.clockIdle := rfl
@[simp] theorem emitPin_sel (e : PinEvent) (s : State) : (emitPin e s).sel = s.sel := rfl
@[simp] theorem emitPin_rowselCode (e : PinEvent) (s : State) : (emitPin e s).rowselCode = s.rowselCode := rfl
@[simp] theorem emitPin_fetchIndex (e : PinEvent) (s : State) : (emitPin e s).fetchIndex = s.fetchIndex := rfl
@[simp] theorem emitPin_byteAt (e : PinEvent) (s : State) (j : Nat) : (emitPin e s).byteAt j = s.byteAt j := rfl

/-! ## `respond` -/

@[simp] theorem respond_cfg (r : Response) (s : State) : (respond r s).cfg = s.cfg := rfl
@[simp] theorem respond_panelsWide (r : Response) (s : State) : (respond r s).panelsWide = s.panelsWide := rfl
@[simp] theorem respond_panelsHigh (r : Response) (s : State) : (respond r s).panelsHigh = s.panelsHigh := rfl
@[simp] theorem respond_phase (r : Response) (s : State) : (respond r s).phase = s.phase := rfl
@[simp] theorem respond_failed (r : Response) (s : State) : (respond r s).failed = s.failed := rfl
@[simp] theorem respond_seq (r : Response) (s : State) : (respond r s).seq = s.seq := rfl
@[simp] theorem respond_k (r : Response) (s : State) : (respond r s).k = s.k := rfl
@[simp] theorem respond_bitn (r : Response) (s : State) : (respond r s).bitn = s.bitn := rfl
@[simp] theorem respond_sr (r : Response) (s : State) : (respond r s).sr = s.sr := rfl
@[simp] theorem respond_lvl (r : Response) (s : State) : (respond r s).lvl = s.lvl := rfl
@[simp] theorem respond_dir (r : Response) (s : State) : (respond r s).dir = s.dir := rfl
@[simp] theorem respond_mem (r : Response) (s : State) : (respond r s).mem = s.mem := rfl
@[simp] theorem respond_panel (r : Response) (s : State) : (respond r s).panel = s.panel := rfl
@[simp] theorem respond_rst (r : Response) (s : State) : (respond r s).rst = s.rst := rfl
@[simp] theorem respond_cmds (r : Response) (s : State) : (respond r s).cmds = s.cmds := rfl
@[simp] theorem respond_env (r : Response) (s : State) : (respond r s).env = s.env := rfl
@[simp] theorem respond_byteTrace (r : Response) (s : State) : (respond r s).byteTrace = s.byteTrace := rfl
@[simp] theorem respond_pinTrace (r : Response) (s : State) : (respond r s).pinTrace = s.pinTrace := rfl
@[simp] theorem respond_responses (r : Response) (s : State) : (respond r s).responses = s.responses ++ [r] := rfl
@[simp] theorem respond_fbReads (r : Response) (s : State) : (respond r s).fbReads = s.fbReads := rfl
@[simp] theorem respond_resetEra (r : Response) (s : State) : (respond r s).resetEra = s.resetEra := rfl
@[simp] theorem respond_memEra (r : Response) (s : State) : (respond r s).memEra = s.memEra := rfl
@[simp] theorem respond_panels (r : Response) (s : State) : (respond r s).panels = s.panels := rfl
@[simp] theorem respond_fbLen (r : Response) (s : State) : (respond r s).fbLen = s.fbLen := rfl
@[simp] theorem respond_streamLen (r : Response) (s : State) : (respond r s).streamLen = s.streamLen := rfl
@[simp] theorem respond_working (r : Response) (s : State) : (respond r s).working = s.working := rfl
@[simp] theorem respond_busy (r : Response) (s : State) : (respond r s).busy = s.busy := rfl
@[simp] theorem respond_cmdReady (r : Response) (s : State) : (respond r s).cmdReady = s.cmdReady := rfl
@[simp] theorem respond_oeOn (r : Response) (s : State) : (respond r s).oeOn = s.oeOn := rfl
@[simp] theorem respond_latAsserted (r : Response) (s : State) : (respond r s).latAsserted = s.latAsserted := rfl
@[simp] theorem respond_clockIdle (r : Response) (s : State) : (respond r s).clockIdle = s.clockIdle := rfl
@[simp] theorem respond_sel (r : Response) (s : State) : (respond r s).sel = s.sel := rfl
@[simp] theorem respond_rowselCode (r : Response) (s : State) : (respond r s).rowselCode = s.rowselCode := rfl
@[simp] theorem respond_fetchIndex (r : Response) (s : State) : (respond r s).fetchIndex = s.fetchIndex := rfl
@[simp] theorem respond_byteAt (r : Response) (s : State) (j : Nat) : (respond r s).byteAt j = s.byteAt j := rfl

/-! ## `presentIndex` -/

@[simp] theorem presentIndex_cfg (i : Nat) (s : State) : (presentIndex i s).cfg = s.cfg := rfl
@[simp] theorem presentIndex_panelsWide (i : Nat) (s : State) : (presentIndex i s).panelsWide = s.panelsWide := rfl
@[simp] theorem presentIndex_panelsHigh (i : Nat) (s : State) : (presentIndex i s).panelsHigh = s.panelsHigh := rfl
@[simp] theorem presentIndex_phase (i : Nat) (s : State) : (presentIndex i s).phase = s.phase := rfl
@[simp] theorem presentIndex_failed (i : Nat) (s : State) : (presentIndex i s).failed = s.failed := rfl
@[simp] theorem presentIndex_seq (i : Nat) (s : State) : (presentIndex i s).seq = s.seq := rfl
@[simp] theorem presentIndex_k (i : Nat) (s : State) : (presentIndex i s).k = s.k := rfl
@[simp] theorem presentIndex_bitn (i : Nat) (s : State) : (presentIndex i s).bitn = s.bitn := rfl
@[simp] theorem presentIndex_sr (i : Nat) (s : State) : (presentIndex i s).sr = s.sr := rfl
@[simp] theorem presentIndex_lvl (i : Nat) (s : State) : (presentIndex i s).lvl = s.lvl := rfl
@[simp] theorem presentIndex_dir (i : Nat) (s : State) : (presentIndex i s).dir = s.dir := rfl
@[simp] theorem presentIndex_mem (i : Nat) (s : State) : (presentIndex i s).mem = s.mem := rfl
@[simp] theorem presentIndex_panel (i : Nat) (s : State) : (presentIndex i s).panel = s.panel := rfl
@[simp] theorem presentIndex_rst (i : Nat) (s : State) : (presentIndex i s).rst = s.rst := rfl
@[simp] theorem presentIndex_cmds (i : Nat) (s : State) : (presentIndex i s).cmds = s.cmds := rfl
@[simp] theorem presentIndex_env (i : Nat) (s : State) : (presentIndex i s).env = s.env := rfl
@[simp] theorem presentIndex_byteTrace (i : Nat) (s : State) : (presentIndex i s).byteTrace = s.byteTrace := rfl
@[simp] theorem presentIndex_pinTrace (i : Nat) (s : State) : (presentIndex i s).pinTrace = s.pinTrace := rfl
@[simp] theorem presentIndex_responses (i : Nat) (s : State) : (presentIndex i s).responses = s.responses := rfl
@[simp] theorem presentIndex_fbReads (i : Nat) (s : State) : (presentIndex i s).fbReads = s.fbReads ++ [i] := rfl
@[simp] theorem presentIndex_resetEra (i : Nat) (s : State) : (presentIndex i s).resetEra = s.resetEra := rfl
@[simp] theorem presentIndex_memEra (i : Nat) (s : State) : (presentIndex i s).memEra = s.memEra := rfl
@[simp] theorem presentIndex_panels (i : Nat) (s : State) : (presentIndex i s).panels = s.panels := rfl
@[simp] theorem presentIndex_fbLen (i : Nat) (s : State) : (presentIndex i s).fbLen = s.fbLen := rfl
@[simp] theorem presentIndex_streamLen (i : Nat) (s : State) : (presentIndex i s).streamLen = s.streamLen := rfl
@[simp] theorem presentIndex_working (i : Nat) (s : State) : (presentIndex i s).working = s.working := rfl
@[simp] theorem presentIndex_busy (i : Nat) (s : State) : (presentIndex i s).busy = s.busy := rfl
@[simp] theorem presentIndex_cmdReady (i : Nat) (s : State) : (presentIndex i s).cmdReady = s.cmdReady := rfl
@[simp] theorem presentIndex_oeOn (i : Nat) (s : State) : (presentIndex i s).oeOn = s.oeOn := rfl
@[simp] theorem presentIndex_latAsserted (i : Nat) (s : State) : (presentIndex i s).latAsserted = s.latAsserted := rfl
@[simp] theorem presentIndex_clockIdle (i : Nat) (s : State) : (presentIndex i s).clockIdle = s.clockIdle := rfl
@[simp] theorem presentIndex_sel (i : Nat) (s : State) : (presentIndex i s).sel = s.sel := rfl
@[simp] theorem presentIndex_rowselCode (i : Nat) (s : State) : (presentIndex i s).rowselCode = s.rowselCode := rfl
@[simp] theorem presentIndex_fetchIndex (i : Nat) (s : State) : (presentIndex i s).fetchIndex = s.fetchIndex := rfl
@[simp] theorem presentIndex_byteAt (i : Nat) (s : State) (j : Nat) : (presentIndex i s).byteAt j = s.byteAt j := rfl

/-! ## `setPhase` -/

@[simp] theorem setPhase_cfg (p : BitVec 2) (s : State) : (setPhase p s).cfg = s.cfg := rfl
@[simp] theorem setPhase_panelsWide (p : BitVec 2) (s : State) : (setPhase p s).panelsWide = s.panelsWide := rfl
@[simp] theorem setPhase_panelsHigh (p : BitVec 2) (s : State) : (setPhase p s).panelsHigh = s.panelsHigh := rfl
@[simp] theorem setPhase_phase (p : BitVec 2) (s : State) : (setPhase p s).phase = p := rfl
@[simp] theorem setPhase_failed (p : BitVec 2) (s : State) : (setPhase p s).failed = s.failed := rfl
@[simp] theorem setPhase_seq (p : BitVec 2) (s : State) : (setPhase p s).seq = s.seq := rfl
@[simp] theorem setPhase_k (p : BitVec 2) (s : State) : (setPhase p s).k = s.k := rfl
@[simp] theorem setPhase_bitn (p : BitVec 2) (s : State) : (setPhase p s).bitn = s.bitn := rfl
@[simp] theorem setPhase_sr (p : BitVec 2) (s : State) : (setPhase p s).sr = s.sr := rfl
@[simp] theorem setPhase_lvl (p : BitVec 2) (s : State) : (setPhase p s).lvl = s.lvl := rfl
@[simp] theorem setPhase_dir (p : BitVec 2) (s : State) : (setPhase p s).dir = s.dir := rfl
@[simp] theorem setPhase_mem (p : BitVec 2) (s : State) : (setPhase p s).mem = s.mem := rfl
@[simp] theorem setPhase_panel (p : BitVec 2) (s : State) : (setPhase p s).panel = s.panel := rfl
@[simp] theorem setPhase_rst (p : BitVec 2) (s : State) : (setPhase p s).rst = s.rst := rfl
@[simp] theorem setPhase_cmds (p : BitVec 2) (s : State) : (setPhase p s).cmds = s.cmds := rfl
@[simp] theorem setPhase_env (p : BitVec 2) (s : State) : (setPhase p s).env = s.env := rfl
@[simp] theorem setPhase_byteTrace (p : BitVec 2) (s : State) : (setPhase p s).byteTrace = s.byteTrace := rfl
@[simp] theorem setPhase_pinTrace (p : BitVec 2) (s : State) : (setPhase p s).pinTrace = s.pinTrace := rfl
@[simp] theorem setPhase_responses (p : BitVec 2) (s : State) : (setPhase p s).responses = s.responses := rfl
@[simp] theorem setPhase_fbReads (p : BitVec 2) (s : State) : (setPhase p s).fbReads = s.fbReads := rfl
@[simp] theorem setPhase_resetEra (p : BitVec 2) (s : State) : (setPhase p s).resetEra = s.resetEra := rfl
@[simp] theorem setPhase_memEra (p : BitVec 2) (s : State) : (setPhase p s).memEra = s.memEra := rfl
@[simp] theorem setPhase_panels (p : BitVec 2) (s : State) : (setPhase p s).panels = s.panels := rfl
@[simp] theorem setPhase_fbLen (p : BitVec 2) (s : State) : (setPhase p s).fbLen = s.fbLen := rfl
@[simp] theorem setPhase_streamLen (p : BitVec 2) (s : State) : (setPhase p s).streamLen = s.streamLen := rfl
@[simp] theorem setPhase_working (p : BitVec 2) (s : State) : (setPhase p s).working = s.working := rfl
@[simp] theorem setPhase_busy (p : BitVec 2) (s : State) : (setPhase p s).busy = s.busy := rfl
@[simp] theorem setPhase_cmdReady (p : BitVec 2) (s : State) : (setPhase p s).cmdReady = s.cmdReady := rfl
@[simp] theorem setPhase_oeOn (p : BitVec 2) (s : State) : (setPhase p s).oeOn = s.oeOn := rfl
@[simp] theorem setPhase_latAsserted (p : BitVec 2) (s : State) : (setPhase p s).latAsserted = s.latAsserted := rfl
@[simp] theorem setPhase_clockIdle (p : BitVec 2) (s : State) : (setPhase p s).clockIdle = s.clockIdle := rfl
@[simp] theorem setPhase_sel (p : BitVec 2) (s : State) : (setPhase p s).sel = s.sel := rfl
@[simp] theorem setPhase_byteAt (p : BitVec 2) (s : State) (j : Nat) : (setPhase p s).byteAt j = s.byteAt j := rfl

/-! ## `setK` -/

@[simp] theorem setK_cfg (n : Nat) (s : State) : (setK n s).cfg = s.cfg := rfl
@[simp] theorem setK_panelsWide (n : Nat) (s : State) : (setK n s).panelsWide = s.panelsWide := rfl
@[simp] theorem setK_panelsHigh (n : Nat) (s : State) : (setK n s).panelsHigh = s.panelsHigh := rfl
@[simp] theorem setK_phase (n : Nat) (s : State) : (setK n s).phase = s.phase := rfl
@[simp] theorem setK_failed (n : Nat) (s : State) : (setK n s).failed = s.failed := rfl
@[simp] theorem setK_seq (n : Nat) (s : State) : (setK n s).seq = s.seq := rfl
@[simp] theorem setK_k (n : Nat) (s : State) : (setK n s).k = n := rfl
@[simp] theorem setK_bitn (n : Nat) (s : State) : (setK n s).bitn = s.bitn := rfl
@[simp] theorem setK_sr (n : Nat) (s : State) : (setK n s).sr = s.sr := rfl
@[simp] theorem setK_lvl (n : Nat) (s : State) : (setK n s).lvl = s.lvl := rfl
@[simp] theorem setK_dir (n : Nat) (s : State) : (setK n s).dir = s.dir := rfl
@[simp] theorem setK_mem (n : Nat) (s : State) : (setK n s).mem = s.mem := rfl
@[simp] theorem setK_panel (n : Nat) (s : State) : (setK n s).panel = s.panel := rfl
@[simp] theorem setK_rst (n : Nat) (s : State) : (setK n s).rst = s.rst := rfl
@[simp] theorem setK_cmds (n : Nat) (s : State) : (setK n s).cmds = s.cmds := rfl
@[simp] theorem setK_env (n : Nat) (s : State) : (setK n s).env = s.env := rfl
@[simp] theorem setK_byteTrace (n : Nat) (s : State) : (setK n s).byteTrace = s.byteTrace := rfl
@[simp] theorem setK_pinTrace (n : Nat) (s : State) : (setK n s).pinTrace = s.pinTrace := rfl
@[simp] theorem setK_responses (n : Nat) (s : State) : (setK n s).responses = s.responses := rfl
@[simp] theorem setK_fbReads (n : Nat) (s : State) : (setK n s).fbReads = s.fbReads := rfl
@[simp] theorem setK_resetEra (n : Nat) (s : State) : (setK n s).resetEra = s.resetEra := rfl
@[simp] theorem setK_memEra (n : Nat) (s : State) : (setK n s).memEra = s.memEra := rfl
@[simp] theorem setK_panels (n : Nat) (s : State) : (setK n s).panels = s.panels := rfl
@[simp] theorem setK_fbLen (n : Nat) (s : State) : (setK n s).fbLen = s.fbLen := rfl
@[simp] theorem setK_streamLen (n : Nat) (s : State) : (setK n s).streamLen = s.streamLen := rfl
@[simp] theorem setK_working (n : Nat) (s : State) : (setK n s).working = s.working := rfl
@[simp] theorem setK_busy (n : Nat) (s : State) : (setK n s).busy = s.busy := rfl
@[simp] theorem setK_cmdReady (n : Nat) (s : State) : (setK n s).cmdReady = s.cmdReady := rfl
@[simp] theorem setK_oeOn (n : Nat) (s : State) : (setK n s).oeOn = s.oeOn := rfl
@[simp] theorem setK_latAsserted (n : Nat) (s : State) : (setK n s).latAsserted = s.latAsserted := rfl
@[simp] theorem setK_clockIdle (n : Nat) (s : State) : (setK n s).clockIdle = s.clockIdle := rfl
@[simp] theorem setK_sel (n : Nat) (s : State) : (setK n s).sel = s.sel := rfl
@[simp] theorem setK_rowselCode (n : Nat) (s : State) : (setK n s).rowselCode = s.rowselCode := rfl
@[simp] theorem setK_byteAt (n : Nat) (s : State) (j : Nat) : (setK n s).byteAt j = s.byteAt j := rfl

/-! ## `setSr` -/

@[simp] theorem setSr_cfg (b : Byte) (s : State) : (setSr b s).cfg = s.cfg := rfl
@[simp] theorem setSr_panelsWide (b : Byte) (s : State) : (setSr b s).panelsWide = s.panelsWide := rfl
@[simp] theorem setSr_panelsHigh (b : Byte) (s : State) : (setSr b s).panelsHigh = s.panelsHigh := rfl
@[simp] theorem setSr_phase (b : Byte) (s : State) : (setSr b s).phase = s.phase := rfl
@[simp] theorem setSr_failed (b : Byte) (s : State) : (setSr b s).failed = s.failed := rfl
@[simp] theorem setSr_seq (b : Byte) (s : State) : (setSr b s).seq = s.seq := rfl
@[simp] theorem setSr_k (b : Byte) (s : State) : (setSr b s).k = s.k := rfl
@[simp] theorem setSr_bitn (b : Byte) (s : State) : (setSr b s).bitn = s.bitn := rfl
@[simp] theorem setSr_sr (b : Byte) (s : State) : (setSr b s).sr = b := rfl
@[simp] theorem setSr_lvl (b : Byte) (s : State) : (setSr b s).lvl = s.lvl := rfl
@[simp] theorem setSr_dir (b : Byte) (s : State) : (setSr b s).dir = s.dir := rfl
@[simp] theorem setSr_mem (b : Byte) (s : State) : (setSr b s).mem = s.mem := rfl
@[simp] theorem setSr_panel (b : Byte) (s : State) : (setSr b s).panel = s.panel := rfl
@[simp] theorem setSr_rst (b : Byte) (s : State) : (setSr b s).rst = s.rst := rfl
@[simp] theorem setSr_cmds (b : Byte) (s : State) : (setSr b s).cmds = s.cmds := rfl
@[simp] theorem setSr_env (b : Byte) (s : State) : (setSr b s).env = s.env := rfl
@[simp] theorem setSr_byteTrace (b : Byte) (s : State) : (setSr b s).byteTrace = s.byteTrace := rfl
@[simp] theorem setSr_pinTrace (b : Byte) (s : State) : (setSr b s).pinTrace = s.pinTrace := rfl
@[simp] theorem setSr_responses (b : Byte) (s : State) : (setSr b s).responses = s.responses := rfl
@[simp] theorem setSr_fbReads (b : Byte) (s : State) : (setSr b s).fbReads = s.fbReads := rfl
@[simp] theorem setSr_resetEra (b : Byte) (s : State) : (setSr b s).resetEra = s.resetEra := rfl
@[simp] theorem setSr_memEra (b : Byte) (s : State) : (setSr b s).memEra = s.memEra := rfl
@[simp] theorem setSr_panels (b : Byte) (s : State) : (setSr b s).panels = s.panels := rfl
@[simp] theorem setSr_fbLen (b : Byte) (s : State) : (setSr b s).fbLen = s.fbLen := rfl
@[simp] theorem setSr_streamLen (b : Byte) (s : State) : (setSr b s).streamLen = s.streamLen := rfl
@[simp] theorem setSr_working (b : Byte) (s : State) : (setSr b s).working = s.working := rfl
@[simp] theorem setSr_busy (b : Byte) (s : State) : (setSr b s).busy = s.busy := rfl
@[simp] theorem setSr_cmdReady (b : Byte) (s : State) : (setSr b s).cmdReady = s.cmdReady := rfl
@[simp] theorem setSr_oeOn (b : Byte) (s : State) : (setSr b s).oeOn = s.oeOn := rfl
@[simp] theorem setSr_latAsserted (b : Byte) (s : State) : (setSr b s).latAsserted = s.latAsserted := rfl
@[simp] theorem setSr_clockIdle (b : Byte) (s : State) : (setSr b s).clockIdle = s.clockIdle := rfl
@[simp] theorem setSr_sel (b : Byte) (s : State) : (setSr b s).sel = s.sel := rfl
@[simp] theorem setSr_rowselCode (b : Byte) (s : State) : (setSr b s).rowselCode = s.rowselCode := rfl
@[simp] theorem setSr_fetchIndex (b : Byte) (s : State) : (setSr b s).fetchIndex = s.fetchIndex := rfl
@[simp] theorem setSr_byteAt (b : Byte) (s : State) (j : Nat) : (setSr b s).byteAt j = s.byteAt j := rfl

/-! ## `taken` -/

@[simp] theorem taken_cfg (s : State) : (s.taken).cfg = s.cfg := rfl
@[simp] theorem taken_panelsWide (s : State) : (s.taken).panelsWide = s.panelsWide := rfl
@[simp] theorem taken_panelsHigh (s : State) : (s.taken).panelsHigh = s.panelsHigh := rfl
@[simp] theorem taken_phase (s : State) : (s.taken).phase = s.phase := rfl
@[simp] theorem taken_failed (s : State) : (s.taken).failed = s.failed := rfl
@[simp] theorem taken_seq (s : State) : (s.taken).seq = s.seq := rfl
@[simp] theorem taken_k (s : State) : (s.taken).k = s.k := rfl
@[simp] theorem taken_bitn (s : State) : (s.taken).bitn = s.bitn := rfl
@[simp] theorem taken_sr (s : State) : (s.taken).sr = s.sr := rfl
@[simp] theorem taken_lvl (s : State) : (s.taken).lvl = s.lvl := rfl
@[simp] theorem taken_dir (s : State) : (s.taken).dir = s.dir := rfl
@[simp] theorem taken_mem (s : State) : (s.taken).mem = s.mem := rfl
@[simp] theorem taken_panel (s : State) : (s.taken).panel = s.panel := rfl
@[simp] theorem taken_rst (s : State) : (s.taken).rst = s.rst := rfl
@[simp] theorem taken_cmds (s : State) : (s.taken).cmds = s.cmds := rfl
@[simp] theorem taken_env (s : State) : (s.taken).env = s.env.tail := rfl
@[simp] theorem taken_byteTrace (s : State) : (s.taken).byteTrace = s.byteTrace := rfl
@[simp] theorem taken_pinTrace (s : State) : (s.taken).pinTrace = s.pinTrace := rfl
@[simp] theorem taken_responses (s : State) : (s.taken).responses = s.responses := rfl
@[simp] theorem taken_fbReads (s : State) : (s.taken).fbReads = s.fbReads := rfl
@[simp] theorem taken_resetEra (s : State) : (s.taken).resetEra = s.resetEra := rfl
@[simp] theorem taken_memEra (s : State) : (s.taken).memEra = s.memEra := rfl
@[simp] theorem taken_panels (s : State) : (s.taken).panels = s.panels := rfl
@[simp] theorem taken_fbLen (s : State) : (s.taken).fbLen = s.fbLen := rfl
@[simp] theorem taken_streamLen (s : State) : (s.taken).streamLen = s.streamLen := rfl
@[simp] theorem taken_working (s : State) : (s.taken).working = s.working := rfl
@[simp] theorem taken_busy (s : State) : (s.taken).busy = s.busy := rfl
@[simp] theorem taken_cmdReady (s : State) : (s.taken).cmdReady = s.cmdReady := rfl
@[simp] theorem taken_oeOn (s : State) : (s.taken).oeOn = s.oeOn := rfl
@[simp] theorem taken_latAsserted (s : State) : (s.taken).latAsserted = s.latAsserted := rfl
@[simp] theorem taken_clockIdle (s : State) : (s.taken).clockIdle = s.clockIdle := rfl
@[simp] theorem taken_sel (s : State) : (s.taken).sel = s.sel := rfl
@[simp] theorem taken_rowselCode (s : State) : (s.taken).rowselCode = s.rowselCode := rfl
@[simp] theorem taken_fetchIndex (s : State) : (s.taken).fetchIndex = s.fetchIndex := rfl
@[simp] theorem taken_byteAt (s : State) (j : Nat) : (s.taken).byteAt j = s.byteAt j := rfl

/-! ## `holdWords` -/

@[simp] theorem holdWords_cfg (ws : List (BitVec 8)) (s : State) : (holdWords ws s).cfg = s.cfg := rfl
@[simp] theorem holdWords_panelsWide (ws : List (BitVec 8)) (s : State) : (holdWords ws s).panelsWide = s.panelsWide := rfl
@[simp] theorem holdWords_panelsHigh (ws : List (BitVec 8)) (s : State) : (holdWords ws s).panelsHigh = s.panelsHigh := rfl
@[simp] theorem holdWords_phase (ws : List (BitVec 8)) (s : State) : (holdWords ws s).phase = s.phase := rfl
@[simp] theorem holdWords_failed (ws : List (BitVec 8)) (s : State) : (holdWords ws s).failed = s.failed := rfl
@[simp] theorem holdWords_seq (ws : List (BitVec 8)) (s : State) : (holdWords ws s).seq = s.seq := rfl
@[simp] theorem holdWords_k (ws : List (BitVec 8)) (s : State) : (holdWords ws s).k = s.k := rfl
@[simp] theorem holdWords_bitn (ws : List (BitVec 8)) (s : State) : (holdWords ws s).bitn = s.bitn := rfl
@[simp] theorem holdWords_sr (ws : List (BitVec 8)) (s : State) : (holdWords ws s).sr = s.sr := rfl
@[simp] theorem holdWords_lvl (ws : List (BitVec 8)) (s : State) : (holdWords ws s).lvl = s.lvl := rfl
@[simp] theorem holdWords_dir (ws : List (BitVec 8)) (s : State) : (holdWords ws s).dir = s.dir := rfl
@[simp] theorem holdWords_mem (ws : List (BitVec 8)) (s : State) : (holdWords ws s).mem = s.mem := rfl
@[simp] theorem holdWords_panel (ws : List (BitVec 8)) (s : State) : (holdWords ws s).panel = s.panel := rfl
@[simp] theorem holdWords_rst (ws : List (BitVec 8)) (s : State) : (holdWords ws s).rst = s.rst := rfl
@[simp] theorem holdWords_cmds (ws : List (BitVec 8)) (s : State) : (holdWords ws s).cmds = ws := rfl
@[simp] theorem holdWords_env (ws : List (BitVec 8)) (s : State) : (holdWords ws s).env = s.env := rfl
@[simp] theorem holdWords_byteTrace (ws : List (BitVec 8)) (s : State) : (holdWords ws s).byteTrace = s.byteTrace := rfl
@[simp] theorem holdWords_pinTrace (ws : List (BitVec 8)) (s : State) : (holdWords ws s).pinTrace = s.pinTrace := rfl
@[simp] theorem holdWords_responses (ws : List (BitVec 8)) (s : State) : (holdWords ws s).responses = s.responses := rfl
@[simp] theorem holdWords_fbReads (ws : List (BitVec 8)) (s : State) : (holdWords ws s).fbReads = s.fbReads := rfl
@[simp] theorem holdWords_resetEra (ws : List (BitVec 8)) (s : State) : (holdWords ws s).resetEra = s.resetEra := rfl
@[simp] theorem holdWords_memEra (ws : List (BitVec 8)) (s : State) : (holdWords ws s).memEra = s.memEra := rfl
@[simp] theorem holdWords_panels (ws : List (BitVec 8)) (s : State) : (holdWords ws s).panels = s.panels := rfl
@[simp] theorem holdWords_fbLen (ws : List (BitVec 8)) (s : State) : (holdWords ws s).fbLen = s.fbLen := rfl
@[simp] theorem holdWords_streamLen (ws : List (BitVec 8)) (s : State) : (holdWords ws s).streamLen = s.streamLen := rfl
@[simp] theorem holdWords_working (ws : List (BitVec 8)) (s : State) : (holdWords ws s).working = s.working := rfl
@[simp] theorem holdWords_busy (ws : List (BitVec 8)) (s : State) : (holdWords ws s).busy = s.busy := rfl
@[simp] theorem holdWords_cmdReady (ws : List (BitVec 8)) (s : State) : (holdWords ws s).cmdReady = s.cmdReady := rfl
@[simp] theorem holdWords_oeOn (ws : List (BitVec 8)) (s : State) : (holdWords ws s).oeOn = s.oeOn := rfl
@[simp] theorem holdWords_latAsserted (ws : List (BitVec 8)) (s : State) : (holdWords ws s).latAsserted = s.latAsserted := rfl
@[simp] theorem holdWords_clockIdle (ws : List (BitVec 8)) (s : State) : (holdWords ws s).clockIdle = s.clockIdle := rfl
@[simp] theorem holdWords_sel (ws : List (BitVec 8)) (s : State) : (holdWords ws s).sel = s.sel := rfl
@[simp] theorem holdWords_rowselCode (ws : List (BitVec 8)) (s : State) : (holdWords ws s).rowselCode = s.rowselCode := rfl
@[simp] theorem holdWords_fetchIndex (ws : List (BitVec 8)) (s : State) : (holdWords ws s).fetchIndex = s.fetchIndex := rfl
@[simp] theorem holdWords_byteAt (ws : List (BitVec 8)) (s : State) (j : Nat) : (holdWords ws s).byteAt j = s.byteAt j := rfl

/-! ## `pindir` -/

@[simp] theorem pindir_cfg (l : Line) (s : State) : (pindir l s).cfg = s.cfg := rfl
@[simp] theorem pindir_panelsWide (l : Line) (s : State) : (pindir l s).panelsWide = s.panelsWide := rfl
@[simp] theorem pindir_panelsHigh (l : Line) (s : State) : (pindir l s).panelsHigh = s.panelsHigh := rfl
@[simp] theorem pindir_phase (l : Line) (s : State) : (pindir l s).phase = s.phase := rfl
@[simp] theorem pindir_failed (l : Line) (s : State) : (pindir l s).failed = s.failed := rfl
@[simp] theorem pindir_seq (l : Line) (s : State) : (pindir l s).seq = s.seq := rfl
@[simp] theorem pindir_k (l : Line) (s : State) : (pindir l s).k = s.k := rfl
@[simp] theorem pindir_bitn (l : Line) (s : State) : (pindir l s).bitn = s.bitn := rfl
@[simp] theorem pindir_sr (l : Line) (s : State) : (pindir l s).sr = s.sr := rfl
@[simp] theorem pindir_lvl (l : Line) (s : State) : (pindir l s).lvl = s.lvl := rfl
@[simp] theorem pindir_dir (l : Line) (s : State) : (pindir l s).dir = s.dir.set l .out := rfl
@[simp] theorem pindir_mem (l : Line) (s : State) : (pindir l s).mem = s.mem := rfl
@[simp] theorem pindir_panel (l : Line) (s : State) : (pindir l s).panel = s.panel := rfl
@[simp] theorem pindir_rst (l : Line) (s : State) : (pindir l s).rst = s.rst := rfl
@[simp] theorem pindir_cmds (l : Line) (s : State) : (pindir l s).cmds = s.cmds := rfl
@[simp] theorem pindir_env (l : Line) (s : State) : (pindir l s).env = s.env := rfl
@[simp] theorem pindir_byteTrace (l : Line) (s : State) : (pindir l s).byteTrace = s.byteTrace := rfl
@[simp] theorem pindir_pinTrace (l : Line) (s : State) : (pindir l s).pinTrace = s.pinTrace ++ [.dirset l] := rfl
@[simp] theorem pindir_responses (l : Line) (s : State) : (pindir l s).responses = s.responses := rfl
@[simp] theorem pindir_fbReads (l : Line) (s : State) : (pindir l s).fbReads = s.fbReads := rfl
@[simp] theorem pindir_resetEra (l : Line) (s : State) : (pindir l s).resetEra = s.resetEra := rfl
@[simp] theorem pindir_memEra (l : Line) (s : State) : (pindir l s).memEra = s.memEra := rfl
@[simp] theorem pindir_panels (l : Line) (s : State) : (pindir l s).panels = s.panels := rfl
@[simp] theorem pindir_fbLen (l : Line) (s : State) : (pindir l s).fbLen = s.fbLen := rfl
@[simp] theorem pindir_streamLen (l : Line) (s : State) : (pindir l s).streamLen = s.streamLen := rfl
@[simp] theorem pindir_working (l : Line) (s : State) : (pindir l s).working = s.working := rfl
@[simp] theorem pindir_busy (l : Line) (s : State) : (pindir l s).busy = s.busy := rfl
@[simp] theorem pindir_cmdReady (l : Line) (s : State) : (pindir l s).cmdReady = s.cmdReady := rfl
@[simp] theorem pindir_oeOn (l : Line) (s : State) : (pindir l s).oeOn = s.oeOn := rfl
@[simp] theorem pindir_latAsserted (l : Line) (s : State) : (pindir l s).latAsserted = s.latAsserted := rfl
@[simp] theorem pindir_clockIdle (l : Line) (s : State) : (pindir l s).clockIdle = s.clockIdle := rfl
@[simp] theorem pindir_sel (l : Line) (s : State) : (pindir l s).sel = s.sel := rfl
@[simp] theorem pindir_rowselCode (l : Line) (s : State) : (pindir l s).rowselCode = s.rowselCode := rfl
@[simp] theorem pindir_fetchIndex (l : Line) (s : State) : (pindir l s).fetchIndex = s.fetchIndex := rfl
@[simp] theorem pindir_byteAt (l : Line) (s : State) (j : Nat) : (pindir l s).byteAt j = s.byteAt j := rfl

/-! ## `pinset` -/

@[simp] theorem pinset_cfg (l : Line) (v : Level) (s : State) : (pinset l v s).cfg = s.cfg := rfl
@[simp] theorem pinset_panelsWide (l : Line) (v : Level) (s : State) : (pinset l v s).panelsWide = s.panelsWide := rfl
@[simp] theorem pinset_panelsHigh (l : Line) (v : Level) (s : State) : (pinset l v s).panelsHigh = s.panelsHigh := rfl
@[simp] theorem pinset_phase (l : Line) (v : Level) (s : State) : (pinset l v s).phase = s.phase := rfl
@[simp] theorem pinset_failed (l : Line) (v : Level) (s : State) : (pinset l v s).failed = s.failed := rfl
@[simp] theorem pinset_seq (l : Line) (v : Level) (s : State) : (pinset l v s).seq = s.seq := rfl
@[simp] theorem pinset_k (l : Line) (v : Level) (s : State) : (pinset l v s).k = s.k := rfl
@[simp] theorem pinset_bitn (l : Line) (v : Level) (s : State) : (pinset l v s).bitn = s.bitn := rfl
@[simp] theorem pinset_sr (l : Line) (v : Level) (s : State) : (pinset l v s).sr = s.sr := rfl
@[simp] theorem pinset_lvl (l : Line) (v : Level) (s : State) : (pinset l v s).lvl = s.lvl.set l v := rfl
@[simp] theorem pinset_dir (l : Line) (v : Level) (s : State) : (pinset l v s).dir = s.dir := rfl
@[simp] theorem pinset_mem (l : Line) (v : Level) (s : State) : (pinset l v s).mem = s.mem := rfl
@[simp] theorem pinset_panel (l : Line) (v : Level) (s : State) : (pinset l v s).panel = s.panel.react s.cfg s.lvl.sdata l (s.pad l) v := rfl
@[simp] theorem pinset_rst (l : Line) (v : Level) (s : State) : (pinset l v s).rst = s.rst := rfl
@[simp] theorem pinset_cmds (l : Line) (v : Level) (s : State) : (pinset l v s).cmds = s.cmds := rfl
@[simp] theorem pinset_env (l : Line) (v : Level) (s : State) : (pinset l v s).env = s.env := rfl
@[simp] theorem pinset_byteTrace (l : Line) (v : Level) (s : State) : (pinset l v s).byteTrace = s.byteTrace := rfl
@[simp] theorem pinset_pinTrace (l : Line) (v : Level) (s : State) : (pinset l v s).pinTrace = s.pinTrace ++ [.set l v] := rfl
@[simp] theorem pinset_responses (l : Line) (v : Level) (s : State) : (pinset l v s).responses = s.responses := rfl
@[simp] theorem pinset_fbReads (l : Line) (v : Level) (s : State) : (pinset l v s).fbReads = s.fbReads := rfl
@[simp] theorem pinset_resetEra (l : Line) (v : Level) (s : State) : (pinset l v s).resetEra = s.resetEra := rfl
@[simp] theorem pinset_memEra (l : Line) (v : Level) (s : State) : (pinset l v s).memEra = s.memEra := rfl
@[simp] theorem pinset_panels (l : Line) (v : Level) (s : State) : (pinset l v s).panels = s.panels := rfl
@[simp] theorem pinset_fbLen (l : Line) (v : Level) (s : State) : (pinset l v s).fbLen = s.fbLen := rfl
@[simp] theorem pinset_streamLen (l : Line) (v : Level) (s : State) : (pinset l v s).streamLen = s.streamLen := rfl
@[simp] theorem pinset_working (l : Line) (v : Level) (s : State) : (pinset l v s).working = s.working := rfl
@[simp] theorem pinset_busy (l : Line) (v : Level) (s : State) : (pinset l v s).busy = s.busy := rfl
@[simp] theorem pinset_cmdReady (l : Line) (v : Level) (s : State) : (pinset l v s).cmdReady = s.cmdReady := rfl
@[simp] theorem pinset_rowselCode (l : Line) (v : Level) (s : State) : (pinset l v s).rowselCode = s.rowselCode := rfl
@[simp] theorem pinset_fetchIndex (l : Line) (v : Level) (s : State) : (pinset l v s).fetchIndex = s.fetchIndex := rfl
@[simp] theorem pinset_byteAt (l : Line) (v : Level) (s : State) (j : Nat) : (pinset l v s).byteAt j = s.byteAt j := rfl

@[simp] theorem taken_pad (s : State) (l : Line) : s.taken.pad l = s.pad l := rfl
@[simp] theorem taken_ready (s : State) : s.taken.ready = s.ready := rfl
@[simp] theorem holdWords_ready (ws : List (BitVec 8)) (s : State) : (holdWords ws s).ready = s.ready := rfl

/-! ## Lines -/

@[simp] theorem lines_all_oe {α : Type} (v : α) : (Lines.all v).oe = v := rfl
@[simp] theorem lines_all_a {α : Type} (v : α) : (Lines.all v).a = v := rfl
@[simp] theorem lines_all_b {α : Type} (v : α) : (Lines.all v).b = v := rfl
@[simp] theorem lines_all_sclk {α : Type} (v : α) : (Lines.all v).sclk = v := rfl
@[simp] theorem lines_all_sdata {α : Type} (v : α) : (Lines.all v).sdata = v := rfl
@[simp] theorem lines_all_lat {α : Type} (v : α) : (Lines.all v).lat = v := rfl

theorem lines_get_set_same {α : Type} (v : Lines α) (l : Line) (x : α) : (v.set l x).get l = x := by
  cases l <;> rfl

theorem lines_get_set_other {α : Type} (v : Lines α) (l m : Line) (x : α) (h : m ≠ l) : (v.set l x).get m = v.get m := by
  cases l <;> cases m <;> first | rfl | exact absurd rfl h

theorem lines_set_all {α : Type} (l : Line) (x : α) : (Lines.all x).set l x = Lines.all x := by
  cases l <;> rfl

@[simp] theorem lines_set_oe_oe {α : Type} (v : Lines α) (x : α) : (v.set .oe x).oe = x := rfl
@[simp] theorem lines_set_oe_a {α : Type} (v : Lines α) (x : α) : (v.set .oe x).a = v.a := rfl
@[simp] theorem lines_set_oe_b {α : Type} (v : Lines α) (x : α) : (v.set .oe x).b = v.b := rfl
@[simp] theorem lines_set_oe_sclk {α : Type} (v : Lines α) (x : α) : (v.set .oe x).sclk = v.sclk := rfl
@[simp] theorem lines_set_oe_sdata {α : Type} (v : Lines α) (x : α) : (v.set .oe x).sdata = v.sdata := rfl
@[simp] theorem lines_set_oe_lat {α : Type} (v : Lines α) (x : α) : (v.set .oe x).lat = v.lat := rfl
@[simp] theorem lines_set_a_oe {α : Type} (v : Lines α) (x : α) : (v.set .a x).oe = v.oe := rfl
@[simp] theorem lines_set_a_a {α : Type} (v : Lines α) (x : α) : (v.set .a x).a = x := rfl
@[simp] theorem lines_set_a_b {α : Type} (v : Lines α) (x : α) : (v.set .a x).b = v.b := rfl
@[simp] theorem lines_set_a_sclk {α : Type} (v : Lines α) (x : α) : (v.set .a x).sclk = v.sclk := rfl
@[simp] theorem lines_set_a_sdata {α : Type} (v : Lines α) (x : α) : (v.set .a x).sdata = v.sdata := rfl
@[simp] theorem lines_set_a_lat {α : Type} (v : Lines α) (x : α) : (v.set .a x).lat = v.lat := rfl
@[simp] theorem lines_set_b_oe {α : Type} (v : Lines α) (x : α) : (v.set .b x).oe = v.oe := rfl
@[simp] theorem lines_set_b_a {α : Type} (v : Lines α) (x : α) : (v.set .b x).a = v.a := rfl
@[simp] theorem lines_set_b_b {α : Type} (v : Lines α) (x : α) : (v.set .b x).b = x := rfl
@[simp] theorem lines_set_b_sclk {α : Type} (v : Lines α) (x : α) : (v.set .b x).sclk = v.sclk := rfl
@[simp] theorem lines_set_b_sdata {α : Type} (v : Lines α) (x : α) : (v.set .b x).sdata = v.sdata := rfl
@[simp] theorem lines_set_b_lat {α : Type} (v : Lines α) (x : α) : (v.set .b x).lat = v.lat := rfl
@[simp] theorem lines_set_sclk_oe {α : Type} (v : Lines α) (x : α) : (v.set .sclk x).oe = v.oe := rfl
@[simp] theorem lines_set_sclk_a {α : Type} (v : Lines α) (x : α) : (v.set .sclk x).a = v.a := rfl
@[simp] theorem lines_set_sclk_b {α : Type} (v : Lines α) (x : α) : (v.set .sclk x).b = v.b := rfl
@[simp] theorem lines_set_sclk_sclk {α : Type} (v : Lines α) (x : α) : (v.set .sclk x).sclk = x := rfl
@[simp] theorem lines_set_sclk_sdata {α : Type} (v : Lines α) (x : α) : (v.set .sclk x).sdata = v.sdata := rfl
@[simp] theorem lines_set_sclk_lat {α : Type} (v : Lines α) (x : α) : (v.set .sclk x).lat = v.lat := rfl
@[simp] theorem lines_set_sdata_oe {α : Type} (v : Lines α) (x : α) : (v.set .sdata x).oe = v.oe := rfl
@[simp] theorem lines_set_sdata_a {α : Type} (v : Lines α) (x : α) : (v.set .sdata x).a = v.a := rfl
@[simp] theorem lines_set_sdata_b {α : Type} (v : Lines α) (x : α) : (v.set .sdata x).b = v.b := rfl
@[simp] theorem lines_set_sdata_sclk {α : Type} (v : Lines α) (x : α) : (v.set .sdata x).sclk = v.sclk := rfl
@[simp] theorem lines_set_sdata_sdata {α : Type} (v : Lines α) (x : α) : (v.set .sdata x).sdata = x := rfl
@[simp] theorem lines_set_sdata_lat {α : Type} (v : Lines α) (x : α) : (v.set .sdata x).lat = v.lat := rfl
@[simp] theorem lines_set_lat_oe {α : Type} (v : Lines α) (x : α) : (v.set .lat x).oe = v.oe := rfl
@[simp] theorem lines_set_lat_a {α : Type} (v : Lines α) (x : α) : (v.set .lat x).a = v.a := rfl
@[simp] theorem lines_set_lat_b {α : Type} (v : Lines α) (x : α) : (v.set .lat x).b = v.b := rfl
@[simp] theorem lines_set_lat_sclk {α : Type} (v : Lines α) (x : α) : (v.set .lat x).sclk = v.sclk := rfl
@[simp] theorem lines_set_lat_sdata {α : Type} (v : Lines α) (x : α) : (v.set .lat x).sdata = v.sdata := rfl
@[simp] theorem lines_set_lat_lat {α : Type} (v : Lines α) (x : α) : (v.set .lat x).lat = x := rfl

/-! ## The state after reset -/

theorem reset_memory_wf : State.reset.mem.wf := List.Pairwise.nil

end Sys2Proof.Machine
end

