-- ==== Sys2Proof/Laws/Pins.lean ====
section
/-! SUPPORT. Sys2Proof/Laws/Pins.lean: what `PINSET` and `SERBYTE` do to each part of the state (42_pin_serial_primitives.md R162 to R169). -/

namespace Sys2Proof.Machine

/-! ## `sendBit`: one bit, three pin events -/

theorem sendBit_eq (b : Byte) (n : BitVec 3) (s : State) :
    sendBit b n s = pinset .sclk s.cfg.sclkIdle (pinset .sclk (!s.cfg.sclkIdle) (pinset .sdata (bitAt b n) (countBit n s))) := rfl

theorem countBit_eq (n : BitVec 3) (s : State) :
    countBit n s = { s with bitn := if s.cfg.transport = .bitbang then n else s.bitn } := by
  unfold countBit
  split <;> simp_all

@[simp] theorem countBit_cfg (n : BitVec 3) (s : State) : (countBit n s).cfg = s.cfg := by rw [countBit_eq]
@[simp] theorem countBit_panelsWide (n : BitVec 3) (s : State) : (countBit n s).panelsWide = s.panelsWide := by rw [countBit_eq]
@[simp] theorem countBit_panelsHigh (n : BitVec 3) (s : State) : (countBit n s).panelsHigh = s.panelsHigh := by rw [countBit_eq]
@[simp] theorem countBit_phase (n : BitVec 3) (s : State) : (countBit n s).phase = s.phase := by rw [countBit_eq]
@[simp] theorem countBit_failed (n : BitVec 3) (s : State) : (countBit n s).failed = s.failed := by rw [countBit_eq]
@[simp] theorem countBit_seq (n : BitVec 3) (s : State) : (countBit n s).seq = s.seq := by rw [countBit_eq]
@[simp] theorem countBit_k (n : BitVec 3) (s : State) : (countBit n s).k = s.k := by rw [countBit_eq]
@[simp] theorem countBit_sr (n : BitVec 3) (s : State) : (countBit n s).sr = s.sr := by rw [countBit_eq]
@[simp] theorem countBit_dir (n : BitVec 3) (s : State) : (countBit n s).dir = s.dir := by rw [countBit_eq]
@[simp] theorem countBit_mem (n : BitVec 3) (s : State) : (countBit n s).mem = s.mem := by rw [countBit_eq]
@[simp] theorem countBit_rst (n : BitVec 3) (s : State) : (countBit n s).rst = s.rst := by rw [countBit_eq]
@[simp] theorem countBit_cmds (n : BitVec 3) (s : State) : (countBit n s).cmds = s.cmds := by rw [countBit_eq]
@[simp] theorem countBit_env (n : BitVec 3) (s : State) : (countBit n s).env = s.env := by rw [countBit_eq]
@[simp] theorem countBit_byteTrace (n : BitVec 3) (s : State) : (countBit n s).byteTrace = s.byteTrace := by rw [countBit_eq]
@[simp] theorem countBit_responses (n : BitVec 3) (s : State) : (countBit n s).responses = s.responses := by rw [countBit_eq]
@[simp] theorem countBit_fbReads (n : BitVec 3) (s : State) : (countBit n s).fbReads = s.fbReads := by rw [countBit_eq]
@[simp] theorem countBit_resetEra (n : BitVec 3) (s : State) : (countBit n s).resetEra = s.resetEra := by rw [countBit_eq]
@[simp] theorem countBit_memEra (n : BitVec 3) (s : State) : (countBit n s).memEra = s.memEra := by rw [countBit_eq]
@[simp] theorem countBit_lvl (n : BitVec 3) (s : State) : (countBit n s).lvl = s.lvl := by rw [countBit_eq]
@[simp] theorem countBit_pinTrace (n : BitVec 3) (s : State) : (countBit n s).pinTrace = s.pinTrace := by rw [countBit_eq]
@[simp] theorem countBit_panel (n : BitVec 3) (s : State) : (countBit n s).panel = s.panel := by rw [countBit_eq]
@[simp] theorem countBit_pad (n : BitVec 3) (s : State) (l : Line) : (countBit n s).pad l = s.pad l := by rw [countBit_eq]; rfl

@[simp] theorem sendBit_cfg (b : Byte) (n : BitVec 3) (s : State) : (sendBit b n s).cfg = s.cfg := by simp [sendBit_eq]
@[simp] theorem sendBit_panelsWide (b : Byte) (n : BitVec 3) (s : State) : (sendBit b n s).panelsWide = s.panelsWide := by simp [sendBit_eq]
@[simp] theorem sendBit_panelsHigh (b : Byte) (n : BitVec 3) (s : State) : (sendBit b n s).panelsHigh = s.panelsHigh := by simp [sendBit_eq]
@[simp] theorem sendBit_phase (b : Byte) (n : BitVec 3) (s : State) : (sendBit b n s).phase = s.phase := by simp [sendBit_eq]
@[simp] theorem sendBit_failed (b : Byte) (n : BitVec 3) (s : State) : (sendBit b n s).failed = s.failed := by simp [sendBit_eq]
@[simp] theorem sendBit_seq (b : Byte) (n : BitVec 3) (s : State) : (sendBit b n s).seq = s.seq := by simp [sendBit_eq]
@[simp] theorem sendBit_k (b : Byte) (n : BitVec 3) (s : State) : (sendBit b n s).k = s.k := by simp [sendBit_eq]
@[simp] theorem sendBit_sr (b : Byte) (n : BitVec 3) (s : State) : (sendBit b n s).sr = s.sr := by simp [sendBit_eq]
@[simp] theorem sendBit_dir (b : Byte) (n : BitVec 3) (s : State) : (sendBit b n s).dir = s.dir := by simp [sendBit_eq]
@[simp] theorem sendBit_mem (b : Byte) (n : BitVec 3) (s : State) : (sendBit b n s).mem = s.mem := by simp [sendBit_eq]
@[simp] theorem sendBit_rst (b : Byte) (n : BitVec 3) (s : State) : (sendBit b n s).rst = s.rst := by simp [sendBit_eq]
@[simp] theorem sendBit_cmds (b : Byte) (n : BitVec 3) (s : State) : (sendBit b n s).cmds = s.cmds := by simp [sendBit_eq]
@[simp] theorem sendBit_env (b : Byte) (n : BitVec 3) (s : State) : (sendBit b n s).env = s.env := by simp [sendBit_eq]
@[simp] theorem sendBit_byteTrace (b : Byte) (n : BitVec 3) (s : State) : (sendBit b n s).byteTrace = s.byteTrace := by simp [sendBit_eq]
@[simp] theorem sendBit_responses (b : Byte) (n : BitVec 3) (s : State) : (sendBit b n s).responses = s.responses := by simp [sendBit_eq]
@[simp] theorem sendBit_fbReads (b : Byte) (n : BitVec 3) (s : State) : (sendBit b n s).fbReads = s.fbReads := by simp [sendBit_eq]
@[simp] theorem sendBit_resetEra (b : Byte) (n : BitVec 3) (s : State) : (sendBit b n s).resetEra = s.resetEra := by simp [sendBit_eq]
@[simp] theorem sendBit_memEra (b : Byte) (n : BitVec 3) (s : State) : (sendBit b n s).memEra = s.memEra := by simp [sendBit_eq]

@[simp] theorem sendBit_lvl (b : Byte) (n : BitVec 3) (s : State) :
    (sendBit b n s).lvl = { s.lvl with sdata := bitAt b n, sclk := s.cfg.sclkIdle } := by
  simp [sendBit_eq, Lines.set]

@[simp] theorem sendBit_bitn (b : Byte) (n : BitVec 3) (s : State) :
    (sendBit b n s).bitn = if s.cfg.transport = .bitbang then n else s.bitn := by
  simp [sendBit_eq, countBit_eq]

@[simp] theorem sendBit_pinTrace (b : Byte) (n : BitVec 3) (s : State) :
    (sendBit b n s).pinTrace =
      s.pinTrace ++ [.set .sdata (bitAt b n), .set .sclk (!s.cfg.sclkIdle), .set .sclk s.cfg.sclkIdle] := by
  simp [sendBit_eq]

/-- With the clock driven and idle, one bit sent is one bit shifted into the panel's chain (R163, R182). -/
theorem sendBit_panel (b : Byte) (n : BitVec 3) {s : State} (hdir : s.dir.sclk = .out) (hidle : s.lvl.sclk = s.cfg.sclkIdle) :
    (sendBit b n s).panel = s.panel.shift (bitAt b n) := by
  simp [sendBit_eq, Panel.react, State.pad, Lines.get, Lines.set, hdir, hidle]

/-- An undriven clock shifts nothing (R35). -/
theorem sendBit_panel_undriven (b : Byte) (n : BitVec 3) {s : State} (hdir : s.dir.sclk = .inward) :
    (sendBit b n s).panel = s.panel := by
  simp [sendBit_eq, Panel.react, State.pad, Lines.get, hdir]

/-! ## `SERBYTE`: the eight bits -/

/-- The bits of a list of bit numbers, sent one after the other. -/
def sendBits (b : Byte) (ns : List (BitVec 3)) (s : State) : State := ns.foldl (fun s n => sendBit b n s) s

theorem serbyte_eq_sendBits (b : Byte) (s : State) : serbyte b s = sendBits b (bitOrder s.cfg.serBitOrder) s := rfl

theorem sendBits_cons (b : Byte) (n : BitVec 3) (ns : List (BitVec 3)) (s : State) :
    sendBits b (n :: ns) s = sendBits b ns (sendBit b n s) := rfl

theorem sendBits_cfg (b : Byte) (ns : List (BitVec 3)) (s : State) : (sendBits b ns s).cfg = s.cfg := by
  induction ns generalizing s with
  | nil => rfl
  | cons n ns ih => rw [sendBits_cons, ih, sendBit_cfg]
theorem sendBits_panelsWide (b : Byte) (ns : List (BitVec 3)) (s : State) : (sendBits b ns s).panelsWide = s.panelsWide := by
  induction ns generalizing s with
  | nil => rfl
  | cons n ns ih => rw [sendBits_cons, ih, sendBit_panelsWide]
theorem sendBits_panelsHigh (b : Byte) (ns : List (BitVec 3)) (s : State) : (sendBits b ns s).panelsHigh = s.panelsHigh := by
  induction ns generalizing s with
  | nil => rfl
  | cons n ns ih => rw [sendBits_cons, ih, sendBit_panelsHigh]
theorem sendBits_phase (b : Byte) (ns : List (BitVec 3)) (s : State) : (sendBits b ns s).phase = s.phase := by
  induction ns generalizing s with
  | nil => rfl
  | cons n ns ih => rw [sendBits_cons, ih, sendBit_phase]
theorem sendBits_failed (b : Byte) (ns : List (BitVec 3)) (s : State) : (sendBits b ns s).failed = s.failed := by
  induction ns generalizing s with
  | nil => rfl
  | cons n ns ih => rw [sendBits_cons, ih, sendBit_failed]
theorem sendBits_seq (b : Byte) (ns : List (BitVec 3)) (s : State) : (sendBits b ns s).seq = s.seq := by
  induction ns generalizing s with
  | nil => rfl
  | cons n ns ih => rw [sendBits_cons, ih, sendBit_seq]
theorem sendBits_k (b : Byte) (ns : List (BitVec 3)) (s : State) : (sendBits b ns s).k = s.k := by
  induction ns generalizing s with
  | nil => rfl
  | cons n ns ih => rw [sendBits_cons, ih, sendBit_k]
theorem sendBits_sr (b : Byte) (ns : List (BitVec 3)) (s : State) : (sendBits b ns s).sr = s.sr := by
  induction ns generalizing s with
  | nil => rfl
  | cons n ns ih => rw [sendBits_cons, ih, sendBit_sr]
theorem sendBits_dir (b : Byte) (ns : List (BitVec 3)) (s : State) : (sendBits b ns s).dir = s.dir := by
  induction ns generalizing s with
  | nil => rfl
  | cons n ns ih => rw [sendBits_cons, ih, sendBit_dir]
theorem sendBits_mem (b : Byte) (ns : List (BitVec 3)) (s : State) : (sendBits b ns s).mem = s.mem := by
  induction ns generalizing s with
  | nil => rfl
  | cons n ns ih => rw [sendBits_cons, ih, sendBit_mem]
theorem sendBits_rst (b : Byte) (ns : List (BitVec 3)) (s : State) : (sendBits b ns s).rst = s.rst := by
  induction ns generalizing s with
  | nil => rfl
  | cons n ns ih => rw [sendBits_cons, ih, sendBit_rst]
theorem sendBits_cmds (b : Byte) (ns : List (BitVec 3)) (s : State) : (sendBits b ns s).cmds = s.cmds := by
  induction ns generalizing s with
  | nil => rfl
  | cons n ns ih => rw [sendBits_cons, ih, sendBit_cmds]
theorem sendBits_env (b : Byte) (ns : List (BitVec 3)) (s : State) : (sendBits b ns s).env = s.env := by
  induction ns generalizing s with
  | nil => rfl
  | cons n ns ih => rw [sendBits_cons, ih, sendBit_env]
theorem sendBits_byteTrace (b : Byte) (ns : List (BitVec 3)) (s : State) : (sendBits b ns s).byteTrace = s.byteTrace := by
  induction ns generalizing s with
  | nil => rfl
  | cons n ns ih => rw [sendBits_cons, ih, sendBit_byteTrace]
theorem sendBits_responses (b : Byte) (ns : List (BitVec 3)) (s : State) : (sendBits b ns s).responses = s.responses := by
  induction ns generalizing s with
  | nil => rfl
  | cons n ns ih => rw [sendBits_cons, ih, sendBit_responses]
theorem sendBits_fbReads (b : Byte) (ns : List (BitVec 3)) (s : State) : (sendBits b ns s).fbReads = s.fbReads := by
  induction ns generalizing s with
  | nil => rfl
  | cons n ns ih => rw [sendBits_cons, ih, sendBit_fbReads]
theorem sendBits_resetEra (b : Byte) (ns : List (BitVec 3)) (s : State) : (sendBits b ns s).resetEra = s.resetEra := by
  induction ns generalizing s with
  | nil => rfl
  | cons n ns ih => rw [sendBits_cons, ih, sendBit_resetEra]
theorem sendBits_memEra (b : Byte) (ns : List (BitVec 3)) (s : State) : (sendBits b ns s).memEra = s.memEra := by
  induction ns generalizing s with
  | nil => rfl
  | cons n ns ih => rw [sendBits_cons, ih, sendBit_memEra]

@[simp] theorem serbyte_cfg (b : Byte) (s : State) : (serbyte b s).cfg = s.cfg := by rw [serbyte_eq_sendBits, sendBits_cfg]
@[simp] theorem serbyte_panelsWide (b : Byte) (s : State) : (serbyte b s).panelsWide = s.panelsWide := by rw [serbyte_eq_sendBits, sendBits_panelsWide]
@[simp] theorem serbyte_panelsHigh (b : Byte) (s : State) : (serbyte b s).panelsHigh = s.panelsHigh := by rw [serbyte_eq_sendBits, sendBits_panelsHigh]
@[simp] theorem serbyte_phase (b : Byte) (s : State) : (serbyte b s).phase = s.phase := by rw [serbyte_eq_sendBits, sendBits_phase]
@[simp] theorem serbyte_failed (b : Byte) (s : State) : (serbyte b s).failed = s.failed := by rw [serbyte_eq_sendBits, sendBits_failed]
@[simp] theorem serbyte_seq (b : Byte) (s : State) : (serbyte b s).seq = s.seq := by rw [serbyte_eq_sendBits, sendBits_seq]
@[simp] theorem serbyte_k (b : Byte) (s : State) : (serbyte b s).k = s.k := by rw [serbyte_eq_sendBits, sendBits_k]
@[simp] theorem serbyte_sr (b : Byte) (s : State) : (serbyte b s).sr = s.sr := by rw [serbyte_eq_sendBits, sendBits_sr]
@[simp] theorem serbyte_dir (b : Byte) (s : State) : (serbyte b s).dir = s.dir := by rw [serbyte_eq_sendBits, sendBits_dir]
@[simp] theorem serbyte_mem (b : Byte) (s : State) : (serbyte b s).mem = s.mem := by rw [serbyte_eq_sendBits, sendBits_mem]
@[simp] theorem serbyte_rst (b : Byte) (s : State) : (serbyte b s).rst = s.rst := by rw [serbyte_eq_sendBits, sendBits_rst]
@[simp] theorem serbyte_cmds (b : Byte) (s : State) : (serbyte b s).cmds = s.cmds := by rw [serbyte_eq_sendBits, sendBits_cmds]
@[simp] theorem serbyte_env (b : Byte) (s : State) : (serbyte b s).env = s.env := by rw [serbyte_eq_sendBits, sendBits_env]
@[simp] theorem serbyte_byteTrace (b : Byte) (s : State) : (serbyte b s).byteTrace = s.byteTrace := by rw [serbyte_eq_sendBits, sendBits_byteTrace]
@[simp] theorem serbyte_responses (b : Byte) (s : State) : (serbyte b s).responses = s.responses := by rw [serbyte_eq_sendBits, sendBits_responses]
@[simp] theorem serbyte_fbReads (b : Byte) (s : State) : (serbyte b s).fbReads = s.fbReads := by rw [serbyte_eq_sendBits, sendBits_fbReads]
@[simp] theorem serbyte_resetEra (b : Byte) (s : State) : (serbyte b s).resetEra = s.resetEra := by rw [serbyte_eq_sendBits, sendBits_resetEra]
@[simp] theorem serbyte_memEra (b : Byte) (s : State) : (serbyte b s).memEra = s.memEra := by rw [serbyte_eq_sendBits, sendBits_memEra]
@[simp] theorem serbyte_panels (b : Byte) (s : State) : (serbyte b s).panels = s.panels := by simp [State.panels]
@[simp] theorem serbyte_fbLen (b : Byte) (s : State) : (serbyte b s).fbLen = s.fbLen := by simp [State.fbLen, State.panels]
@[simp] theorem serbyte_streamLen (b : Byte) (s : State) : (serbyte b s).streamLen = s.streamLen := by simp [State.streamLen, State.panels]
@[simp] theorem serbyte_working (b : Byte) (s : State) : (serbyte b s).working = s.working := by simp [State.working]
@[simp] theorem serbyte_busy (b : Byte) (s : State) : (serbyte b s).busy = s.busy := by simp [State.busy]
@[simp] theorem serbyte_cmdReady (b : Byte) (s : State) : (serbyte b s).cmdReady = s.cmdReady := by simp [State.cmdReady, State.busy]
@[simp] theorem serbyte_rowselCode (b : Byte) (s : State) : (serbyte b s).rowselCode = s.rowselCode := by simp [State.rowselCode]
@[simp] theorem serbyte_fetchIndex (b : Byte) (s : State) : (serbyte b s).fetchIndex = s.fetchIndex := by simp [State.fetchIndex, State.panels]
@[simp] theorem serbyte_byteAt (b : Byte) (s : State) (i : Nat) : (serbyte b s).byteAt i = s.byteAt i := by simp [State.byteAt]

/-- After `SERBYTE` the clock is idle and the data line carries bit 0 (R169). -/
@[simp] theorem serbyte_lvl (b : Byte) (s : State) :
    (serbyte b s).lvl = { s.lvl with sdata := b.getLsbD 0, sclk := s.cfg.sclkIdle } := by
  simp [serbyte, bitOrder, bitAt]

/-- The bit-banged transport's counter ends at 0; the peripheral's is not visible (R26, R164, R165). -/
@[simp] theorem serbyte_bitn (b : Byte) (s : State) :
    (serbyte b s).bitn = if s.cfg.transport = .bitbang then 0 else s.bitn := by
  simp only [serbyte, bitOrder, List.foldl_cons, List.foldl_nil, sendBit_bitn, sendBit_cfg]
  split <;> rfl

theorem sendBits_pinTrace (b : Byte) (ns : List (BitVec 3)) (s : State) :
    (sendBits b ns s).pinTrace = s.pinTrace ++
      ns.flatMap fun n => [.set .sdata (bitAt b n), .set .sclk (!s.cfg.sclkIdle), .set .sclk s.cfg.sclkIdle] := by
  induction ns generalizing s with
  | nil => simp [sendBits]
  | cons n ns ih => rw [sendBits_cons, ih]; simp

/-- The 24 pin-level events of a byte (R164). -/
@[simp] theorem serbyte_pinTrace (b : Byte) (s : State) : (serbyte b s).pinTrace = s.pinTrace ++ serialEvents s.cfg b := by
  rw [serbyte_eq_sendBits, sendBits_pinTrace, serialEvents, byteBits, List.flatMap_map]

theorem sendBits_panel (b : Byte) (ns : List (BitVec 3)) {s : State} (hdir : s.dir.sclk = .out)
    (hidle : s.lvl.sclk = s.cfg.sclkIdle) : (sendBits b ns s).panel = (ns.map (bitAt b)).foldl Panel.shift s.panel := by
  induction ns generalizing s with
  | nil => rfl
  | cons n ns ih =>
    rw [sendBits_cons, ih (by simpa using hdir) (by simp), sendBit_panel b n hdir hidle]
    rfl

/-- With the clock driven and idle, the panel takes the eight bits, bit 7 first (R163, R182). -/
theorem serbyte_panel (b : Byte) {s : State} (hdir : s.dir.sclk = .out) (hidle : s.lvl.sclk = s.cfg.sclkIdle) :
    (serbyte b s).panel = (byteBits s.cfg.serBitOrder b).foldl Panel.shift s.panel := by
  rw [serbyte_eq_sendBits, sendBits_panel b _ hdir hidle, byteBits]

theorem sendBits_panel_undriven (b : Byte) (ns : List (BitVec 3)) {s : State} (hdir : s.dir.sclk = .inward) :
    (sendBits b ns s).panel = s.panel := by
  induction ns generalizing s with
  | nil => rfl
  | cons n ns ih => rw [sendBits_cons, ih (by simpa using hdir), sendBit_panel_undriven b n hdir]

/-- An undriven clock shifts nothing (R35). -/
theorem serbyte_panel_undriven (b : Byte) {s : State} (hdir : s.dir.sclk = .inward) : (serbyte b s).panel = s.panel := by
  rw [serbyte_eq_sendBits, sendBits_panel_undriven b _ hdir]

@[simp] theorem sendBit_latched (b : Byte) (n : BitVec 3) (s : State) : (sendBit b n s).panel.latched = s.panel.latched := by
  simp only [sendBit_eq, pinset_panel, Panel.react, countBit_panel]
  repeat' split
  all_goals rfl

theorem sendBits_latched (b : Byte) (ns : List (BitVec 3)) (s : State) :
    (sendBits b ns s).panel.latched = s.panel.latched := by
  induction ns generalizing s with
  | nil => rfl
  | cons n ns ih => rw [sendBits_cons, ih, sendBit_latched]

/-- `SERBYTE` never changes the latches. -/
@[simp] theorem serbyte_latched (b : Byte) (s : State) : (serbyte b s).panel.latched = s.panel.latched := by
  rw [serbyte_eq_sendBits, sendBits_latched]

/-- `SERBYTE` as one record: everything it changes (R163 to R165, R169). -/
theorem serbyte_eq (b : Byte) (s : State) : serbyte b s =
    { s with
      lvl := { s.lvl with sdata := b.getLsbD 0, sclk := s.cfg.sclkIdle }
      bitn := if s.cfg.transport = .bitbang then 0 else s.bitn
      pinTrace := s.pinTrace ++ serialEvents s.cfg b
      panel := (serbyte b s).panel } := by
  ext <;> simp

/-! ## The panel's chain -/

@[simp] theorem shift_length (p : Panel) (d : Level) : (p.shift d).chain.length = p.chain.length := by
  simp [Panel.shift]

@[simp] theorem shift_latched (p : Panel) (d : Level) : (p.shift d).latched = p.latched := rfl

@[simp] theorem shift_foldl_latched (bits : List Level) (p : Panel) : (bits.foldl Panel.shift p).latched = p.latched := by
  induction bits generalizing p with
  | nil => rfl
  | cons d bits ih => rw [List.foldl_cons, ih, shift_latched]

@[simp] theorem shift_foldl_length (bits : List Level) (p : Panel) :
    (bits.foldl Panel.shift p).chain.length = p.chain.length := by
  induction bits generalizing p with
  | nil => rfl
  | cons d bits ih => rw [List.foldl_cons, ih, shift_length]

/-- In time order, bits shifted in come last and as many of the oldest are lost (R182). -/
theorem shift_foldl_chain (bits : List Level) (p : Panel) :
    (bits.foldl Panel.shift p).chain = (bits.reverse ++ p.chain).take p.chain.length := by
  induction bits generalizing p with
  | nil => simp
  | cons d bits ih =>
    rw [List.foldl_cons, ih, shift_length]
    simp only [Panel.shift, List.reverse_cons, List.append_assoc, List.singleton_append]
    rw [List.take_append, List.take_append (l₂ := d :: p.chain), List.take_take]
    congr 2
    simp

/-- The panel takes no part in a change of another line than the clock and the latch. -/
theorem react_other (p : Panel) (c : Config) (data : Level) {l : Line} (before : Option Level) (v : Level)
    (hclk : l ≠ .sclk) (hlat : l ≠ .lat) : p.react c data l before v = p := by
  cases l <;> first | rfl | exact absurd rfl hclk | exact absurd rfl hlat

@[simp] theorem react_oe (p : Panel) (c : Config) (data : Level) (before : Option Level) (v : Level) :
    p.react c data .oe before v = p := rfl
@[simp] theorem react_a (p : Panel) (c : Config) (data : Level) (before : Option Level) (v : Level) :
    p.react c data .a before v = p := rfl
@[simp] theorem react_b (p : Panel) (c : Config) (data : Level) (before : Option Level) (v : Level) :
    p.react c data .b before v = p := rfl
@[simp] theorem react_sdata (p : Panel) (c : Config) (data : Level) (before : Option Level) (v : Level) :
    p.react c data .sdata before v = p := rfl

/-- No reaction changes the length of the chain. -/
@[simp] theorem react_length (p : Panel) (c : Config) (data : Level) (l : Line) (before : Option Level) (v : Level) :
    (p.react c data l before v).chain.length = p.chain.length := by
  cases l <;> simp only [Panel.react] <;> try rfl
  · split <;> simp
  · split <;> rfl

@[simp] theorem sendBit_chain_length (b : Byte) (n : BitVec 3) (s : State) :
    (sendBit b n s).panel.chain.length = s.panel.chain.length := by
  simp [sendBit_eq]

@[simp] theorem serbyte_chain_length (b : Byte) (s : State) : (serbyte b s).panel.chain.length = s.panel.chain.length := by
  rw [serbyte_eq_sendBits]
  generalize bitOrder s.cfg.serBitOrder = ns
  induction ns generalizing s with
  | nil => rfl
  | cons n ns ih => rw [sendBits_cons, ih, sendBit_chain_length]

end Sys2Proof.Machine
end

