-- ==== Sys2Proof/Laws/Chain.lean ====
section
/-! SUPPORT. Sys2Proof/Laws/Chain.lean: the panel's chain as whole bytes (45_panel_reference.md R181, R182). -/

namespace Sys2Proof.Machine

theorem bytesOf_cons8 (b7 b6 b5 b4 b3 b2 b1 b0 : Level) (rest : List Level) :
    bytesOf (b7 :: b6 :: b5 :: b4 :: b3 :: b2 :: b1 :: b0 :: rest) =
      byteOf [b7, b6, b5, b4, b3, b2, b1, b0] :: bytesOf rest := rfl

/-- Eight bits in front of others. -/
theorem exists_eight {bits : List Level} {n : Nat} (h : bits.length = 8 * (n + 1)) :
    ∃ b7 b6 b5 b4 b3 b2 b1 b0 rest,
      bits = b7 :: b6 :: b5 :: b4 :: b3 :: b2 :: b1 :: b0 :: rest ∧ rest.length = 8 * n := by
  rcases bits with _ | ⟨b7, _ | ⟨b6, _ | ⟨b5, _ | ⟨b4, _ | ⟨b3, _ | ⟨b2, _ | ⟨b1, _ | ⟨b0, rest⟩⟩⟩⟩⟩⟩⟩⟩ <;>
    simp only [List.length_nil, List.length_cons] at h
  case cons.cons.cons.cons.cons.cons.cons.cons =>
    exact ⟨b7, b6, b5, b4, b3, b2, b1, b0, rest, rfl, by omega⟩
  all_goals exact absurd h (by omega)

/-- Whole bytes in front of other bits. -/
theorem bytesOf_append {bits : List Level} {n : Nat} (h : bits.length = 8 * n) (more : List Level) :
    bytesOf (bits ++ more) = bytesOf bits ++ bytesOf more := by
  induction n generalizing bits with
  | zero =>
    obtain rfl := List.length_eq_zero_iff.1 h
    rfl
  | succ n ih =>
    obtain ⟨b7, b6, b5, b4, b3, b2, b1, b0, rest, rfl, hr⟩ := exists_eight h
    simp only [List.cons_append, bytesOf_cons8, ih hr]

/-- Whole bytes are as many as their bits make. -/
theorem bytesOf_length {bits : List Level} {n : Nat} (h : bits.length = 8 * n) : (bytesOf bits).length = n := by
  induction n generalizing bits with
  | zero =>
    obtain rfl := List.length_eq_zero_iff.1 h
    rfl
  | succ n ih =>
    obtain ⟨b7, b6, b5, b4, b3, b2, b1, b0, rest, rfl, hr⟩ := exists_eight h
    simp only [bytesOf_cons8, List.length_cons, ih hr]

/-- The first byte dropped, as bits and as a byte. -/
theorem bytesOf_drop_eight {bits : List Level} {n : Nat} (h : bits.length = 8 * (n + 1)) :
    bytesOf (bits.drop 8) = (bytesOf bits).drop 1 := by
  obtain ⟨b7, b6, b5, b4, b3, b2, b1, b0, rest, rfl, hr⟩ := exists_eight h
  rfl

/-- A chain of whole bytes, all its bits (R181). -/
theorem rx_eq {p : Panel} {n : Nat} (h : p.chain.length = 8 * n) : p.rx = bytesOf p.chain.reverse := by
  rw [Panel.rx, show 8 * (p.chain.length / 8) = p.chain.length by omega, List.take_length]

theorem rx_length {p : Panel} {n : Nat} (h : p.chain.length = 8 * n) : p.rx.length = n :=
  rx_eq h ▸ bytesOf_length (by simpa using h)

/-- The eight bits of a byte shifted into a chain of whole bytes: the byte comes last, the oldest byte is lost (R182). -/
theorem shift_byte_rx (o : SerBitOrder) (b : Byte) {p : Panel} {n : Nat} (h : p.chain.length = 8 * n) :
    ((byteBits o b).foldl Panel.shift p).rx = (p.rx ++ [b]).drop 1 := by
  have hb : bytesOf (byteBits o b) = [b] := by
    rw [← List.append_nil (byteBits o b), bytesOf_byteBits_append]
    rfl
  have hr : (p.chain.reverse).length = 8 * n := by simpa using h
  have happ : bytesOf (p.chain.reverse ++ byteBits o b) = p.rx ++ [b] := by rw [bytesOf_append hr, hb, rx_eq h]
  have hlen : (p.chain.reverse ++ byteBits o b).length = 8 * (n + 1) := by simp [hr]; omega
  have hchain : ((byteBits o b).foldl Panel.shift p).chain.reverse = (p.chain.reverse ++ byteBits o b).drop 8 := by
    rw [shift_foldl_chain, List.reverse_take]
    simp
  rw [← happ, ← bytesOf_drop_eight hlen, rx_eq (n := n) (by simpa using h), hchain]

/-- `SERBYTE` on a driven, idle clock: the byte enters the chain (R163, R182). -/
theorem serbyte_rx (b : Byte) {s : State} {n : Nat} (hdir : s.dir.sclk = .out) (hidle : s.lvl.sclk = s.cfg.sclkIdle)
    (h : s.panel.chain.length = 8 * n) : (serbyte b s).panel.rx = (s.panel.rx ++ [b]).drop 1 := by
  rw [serbyte_panel b hdir hidle, shift_byte_rx _ _ h]

/-! ## The bytes the latches show (R181, R185, R191) -/

/-- Byte n of panel j among the last `16 × P` bytes of the latches, whatever stands before them. -/
theorem latchByte_of_last {s : State} {older bytes : List Byte} {j n : Nat} (h : s.panel.latched = older ++ bytes)
    (hlen : bytes.length = 16 * s.panels) (hj : j < s.panels) (hn : n < 16) (d : Byte) :
    s.latchByte j n = bytes.getD (16 * j + n) d := by
  have hdepth : latchDepth s.panels j n = bytes.length - 1 - (16 * j + n) := by
    rw [latchDepth, if_pos hj]
    omega
  have hlt : bytes.length - 1 - (16 * j + n) < bytes.reverse.length := by
    rw [List.length_reverse]
    omega
  rw [State.latchByte, h, hdepth, List.reverse_append, List.getD_eq_getElem?_getD, List.getD_eq_getElem?_getD,
    List.getElem?_append_left hlt, List.getElem?_reverse (by omega),
    show bytes.length - 1 - (bytes.length - 1 - (16 * j + n)) = 16 * j + n by omega, List.getElem?_eq_getElem (by omega)]
  rfl

/-- The latched bit of an LED that R185 numbers. -/
theorem latchedBit_of_led {m xl : Nat} (s : State) (j : Nat) (hm : m < 4) (hxl : xl < 32) :
    s.latchedBit j m xl = (s.latchByte j (streamSlot s.cfg.panelOrder m (xl / 8))).getLsbD (7 - xl % 8) :=
  if_pos ⟨hm, hxl⟩

end Sys2Proof.Machine
end

