-- ==== Sys2Proof/Laws/Memory.lean ====
section
/-! SUPPORT. Sys2Proof/Laws/Memory.lean: the frame buffer (20_memory.md R60, R62, R68): a read after a write, and the canonical form. -/

namespace Sys2Proof.Machine

theorem lookup_store_same (m : Memory) (i : Nat) (v : Byte) : (m.store i v).lookup i = some v := by
  induction m with
  | nil => simp [Memory.store, Memory.lookup]
  | cons cell m ih =>
    unfold Memory.store
    split
    · simp [Memory.lookup]
    · split
      · simp [Memory.lookup]
      · rename_i h1 h2
        simpa [Memory.lookup, Ne.symm h2] using ih

theorem lookup_store_other (m : Memory) {i j : Nat} (v : Byte) (h : j ≠ i) : (m.store i v).lookup j = m.lookup j := by
  induction m with
  | nil => simp [Memory.store, Memory.lookup, Ne.symm h]
  | cons cell m ih =>
    unfold Memory.store
    split
    · simp [Memory.lookup, Ne.symm h]
    · split
      · rename_i h1 h2
        subst h2
        simp [Memory.lookup, Ne.symm h]
      · simp [Memory.lookup, ih]

theorem mem_store {m : Memory} {i : Nat} {v : Byte} {cell : Host.Cell} (h : cell ∈ m.store i v) : cell = (i, v) ∨ cell ∈ m := by
  induction m with
  | nil => exact .inl (by simpa [Memory.store] using h)
  | cons head m ih =>
    unfold Memory.store at h
    split at h
    · simpa using h
    · split at h
      · rcases List.mem_cons.1 h with h | h
        · exact .inl h
        · exact .inr (List.mem_cons_of_mem _ h)
      · rcases List.mem_cons.1 h with h | h
        · exact .inr (h ▸ List.mem_cons_self)
        · exact (ih h).imp_right (List.mem_cons_of_mem _)

/-- The one memory operation that writes keeps the canonical form. -/
theorem store_wf {m : Memory} (h : m.wf) (i : Nat) (v : Byte) : (m.store i v).wf := by
  induction m with
  | nil => exact List.pairwise_singleton _ _
  | cons head m ih =>
    obtain ⟨hhead, hm⟩ := List.pairwise_cons.1 h
    unfold Memory.store
    split
    · rename_i hlt
      refine List.pairwise_cons.2 ⟨fun cell hcell => ?_, h⟩
      rcases List.mem_cons.1 hcell with rfl | hcell
      · exact hlt
      · exact Nat.lt_trans hlt (hhead cell hcell)
    · split
      · rename_i heq
        exact List.pairwise_cons.2 ⟨fun cell hcell => by simpa [heq] using hhead cell hcell, hm⟩
      · rename_i hge hne
        refine List.pairwise_cons.2 ⟨fun cell hcell => ?_, ih hm⟩
        rcases mem_store hcell with rfl | hcell
        · show head.1 < i
          omega
        · exact hhead cell hcell

/-- A host write inside the buffer is what the next read of that byte gives (R68b, R71). -/
theorem byteAt_hostWrite_same (s : State) {i : Nat} (v : Byte) (h : i < s.fbLen) : (hostWrite i v s).byteAt i = v := by
  simp [hostWrite, h, State.byteAt, lookup_store_same]

/-- A host write leaves every other byte alone. -/
theorem byteAt_hostWrite_other (s : State) {i j : Nat} (v : Byte) (h : j ≠ i) : (hostWrite i v s).byteAt j = s.byteAt j := by
  unfold hostWrite
  split
  · simp [State.byteAt, lookup_store_other _ _ h]
  · rfl

/-- A host write changes nothing but the frame buffer. -/
theorem hostWrite_eq (i : Nat) (v : Byte) (s : State) :
    hostWrite i v s = { s with mem := if i < s.fbLen then s.mem.store i v else s.mem } := by
  unfold hostWrite
  split <;> rfl

theorem hostWrite_wf {s : State} (h : s.mem.wf) (i : Nat) (v : Byte) : (hostWrite i v s).mem.wf := by
  unfold hostWrite
  split
  · exact store_wf h i v
  · exact h

/-- A read of the engine inside the buffer gives the byte; outside it there is none (R50, R60). -/
theorem memRead_ok (s : State) {i : Nat} (h : i < s.fbLen) : memRead s i = .ok (s.byteAt i) := by
  simp [memRead, h]

theorem memRead_error (s : State) {i : Nat} (h : s.fbLen ≤ i) : memRead s i = .error (.noSuchByte i) := by
  simp [memRead, Nat.not_lt.2 h]

end Sys2Proof.Machine
end

