-- ==== Sys2Proof/Laws/Stream.lean ====
section
/-! SUPPORT. Sys2Proof/Laws/Stream.lean: the stream (30_encoding.md R89 to R92): regions, columns, slots, and the range of `src`. -/

namespace Sys2Proof.Machine

theorem streamRegion_lt (o : StreamOrder) (n : Nat) : streamRegion o n < 4 := by
  cases o <;> simp only [streamRegion] <;> omega

theorem streamColumn_lt (o : StreamOrder) {n : Nat} (h : n < 16) : streamColumn o n < 4 := by
  cases o <;> simp only [streamColumn] <;> omega

theorem streamSlot_lt (o : StreamOrder) {m c : Nat} (hm : m < 4) (hc : c < 4) : streamSlot o m c < 16 := by
  cases o <;> simp only [streamSlot] <;> omega

/-- `slot` is the inverse of the pair `(m, c)` (R185). -/
theorem streamSlot_region_column (o : StreamOrder) {n : Nat} (h : n < 16) : streamSlot o (streamRegion o n) (streamColumn o n) = n := by
  cases o <;> simp only [streamSlot, streamRegion, streamColumn] <;> omega

theorem streamRegion_slot (o : StreamOrder) {m c : Nat} (hm : m < 4) (hc : c < 4) : streamRegion o (streamSlot o m c) = m := by
  cases o <;> simp only [streamSlot, streamRegion] <;> omega

theorem streamColumn_slot (o : StreamOrder) {m c : Nat} (hm : m < 4) (hc : c < 4) : streamColumn o (streamSlot o m c) = c := by
  cases o <;> simp only [streamSlot, streamColumn] <;> omega

/-- `src` as a buffer row and a byte column of it: buffer row `4m + p`, byte column `4j + c` (R52, R53, R89). -/
theorem src_eq_row_column (o : StreamOrder) (P : Nat) (p : BitVec 2) (k : Nat) :
    src o P p k = 4 * P * (4 * streamRegion o (k % 16) + p.toNat) + (4 * (k / 16) + streamColumn o (k % 16)) := by
  simp only [src, phaseBase]
  ring

/-- The byte column is inside a buffer row (R52). -/
theorem src_column_lt (o : StreamOrder) {P k : Nat} (h : k < 16 * P) : 4 * (k / 16) + streamColumn o (k % 16) < 4 * P := by
  have := streamColumn_lt o (Nat.mod_lt k (by decide : 16 > 0))
  omega

/-- No read of the engine is out of range (R66). -/
theorem src_lt (o : StreamOrder) {P k : Nat} (p : BitVec 2) (h : k < 16 * P) : src o P p k < 64 * P := by
  have hrow : 4 * streamRegion o (k % 16) + p.toNat ≤ 15 := by
    have := streamRegion_lt o (k % 16)
    have := p.isLt
    omega
  have hcol := src_column_lt o h
  calc src o P p k = 4 * P * (4 * streamRegion o (k % 16) + p.toNat) + (4 * (k / 16) + streamColumn o (k % 16)) :=
        src_eq_row_column o P p k
    _ < 4 * P * (4 * streamRegion o (k % 16) + p.toNat) + 4 * P := Nat.add_lt_add_left hcol _
    _ ≤ 4 * P * 15 + 4 * P := Nat.add_le_add_right (Nat.mul_le_mul_left _ hrow) _
    _ = 64 * P := by ring

/-- The buffer row a stream byte lies in (R53). -/
theorem src_div_row (o : StreamOrder) {P k : Nat} (p : BitVec 2) (h : k < 16 * P) :
    src o P p k / (4 * P) = 4 * streamRegion o (k % 16) + p.toNat := by
  have hcol := src_column_lt o h
  rw [src_eq_row_column, Nat.mul_add_div (by omega), Nat.div_eq_of_lt hcol, Nat.add_zero]

/-- The byte column a stream byte lies in (R52). -/
theorem src_mod_row (o : StreamOrder) {P k : Nat} (p : BitVec 2) (h : k < 16 * P) :
    src o P p k % (4 * P) = 4 * (k / 16) + streamColumn o (k % 16) := by
  have hcol := src_column_lt o h
  rw [src_eq_row_column, Nat.mul_add_mod, Nat.mod_eq_of_lt hcol]

/-- Two places of the stream with one index are one place (R89). -/
theorem src_injective (o : StreamOrder) {P k l : Nat} {p q : BitVec 2} (hk : k < 16 * P) (hl : l < 16 * P)
    (h : src o P p k = src o P q l) : p = q ∧ k = l := by
  have hrow : 4 * streamRegion o (k % 16) + p.toNat = 4 * streamRegion o (l % 16) + q.toNat := by
    rw [← src_div_row o p hk, ← src_div_row o q hl, h]
  have hcol : 4 * (k / 16) + streamColumn o (k % 16) = 4 * (l / 16) + streamColumn o (l % 16) := by
    rw [← src_mod_row o p hk, ← src_mod_row o q hl, h]
  have hp := p.isLt
  have hq := q.isLt
  have hck := streamColumn_lt o (Nat.mod_lt k (by decide : 16 > 0))
  have hcl := streamColumn_lt o (Nat.mod_lt l (by decide : 16 > 0))
  have hslot := streamSlot_region_column o (Nat.mod_lt k (by decide : 16 > 0))
  rw [show streamRegion o (k % 16) = streamRegion o (l % 16) by omega,
    show streamColumn o (k % 16) = streamColumn o (l % 16) by omega,
    streamSlot_region_column o (Nat.mod_lt l (by decide : 16 > 0))] at hslot
  exact ⟨BitVec.eq_of_toNat_eq (by omega), by omega⟩

/-- The place of buffer row `r`, byte column `c` in the stream (R52, R53, R89). -/
theorem src_of_row_column (o : StreamOrder) {P r c : Nat} (hr : r < 16) (hc : c < 4 * P) :
    ∃ k, k < 16 * P ∧ src o P (BitVec.ofNat 2 r) k = 4 * P * r + c := by
  have hs := streamSlot_lt o (m := r / 4) (c := c % 4) (by omega) (by omega)
  refine ⟨16 * (c / 4) + streamSlot o (r / 4) (c % 4), by omega, ?_⟩
  rw [src_eq_row_column, show (16 * (c / 4) + streamSlot o (r / 4) (c % 4)) % 16 = streamSlot o (r / 4) (c % 4) by omega,
    show (16 * (c / 4) + streamSlot o (r / 4) (c % 4)) / 16 = c / 4 by omega,
    streamRegion_slot o (by omega) (by omega), streamColumn_slot o (by omega) (by omega), BitVec.toNat_ofNat,
    show 4 * (r / 4) + r % 2 ^ 2 = r by omega, show 4 * (c / 4) + c % 4 = c by omega]

/-- The index a `FETCH` reads inside the loop exists (R66, R133). -/
theorem fetchIndex_lt {s : State} (h : s.k < s.streamLen) : s.fetchIndex < s.fbLen :=
  src_lt s.cfg.streamOrder s.phase h

end Sys2Proof.Machine
end

