-- ==== Sys2Proof/Laws/Exec.lean ====
section
/-! SUPPORT. Sys2Proof/Laws/Exec.lean: what each meaning answers, over the named operations (40_host_commands.md R110 to R113,
41_scan_sequence.md R131 to R139, 42_pin_serial_primitives.md R161 to R163). -/

namespace Sys2Proof.Machine

/-! ## Acceptance of a command (R110) -/

theorem ready_iff (s : State) : s.ready = true ↔ s.seq = .idle ∧ s.rst = false ∧ s.failed = false := by
  simp [State.ready, State.cmdReady, State.busy, and_assoc]

theorem cmdReady_iff (s : State) : s.cmdReady = true ↔ s.seq = .idle ∧ s.rst = false := by
  simp [State.cmdReady, State.busy]

theorem working_iff (s : State) : s.working = true ↔ s.failed = false ∧ s.rst = false := by
  simp [State.working]

theorem acceptCommand_ready {s : State} (f : State → State) (h : s.ready = true) : acceptCommand f s = .next (f s) := by
  obtain ⟨h1, h2⟩ := by simpa [State.ready] using h
  simp [acceptCommand, h1, h2]

theorem acceptCommand_failed {s : State} (f : State → State) (h : s.cmdReady = true) (hf : s.failed = true) :
    acceptCommand f s = .next (respond .errFailed s) := by
  simp [acceptCommand, h, hf, raiseError]

theorem acceptCommand_held {s : State} (f : State → State) (h : s.cmdReady = false) : acceptCommand f s = .next s := by
  simp [acceptCommand, h]

/-- Everything the acceptance of a command can answer. -/
theorem acceptCommand_cases {f : State → State} {s t : State} (h : acceptCommand f s = .next t) :
    (s.cmdReady = false ∧ t = s) ∨ (s.cmdReady = true ∧ s.failed = true ∧ t = respond .errFailed s) ∨
      (s.ready = true ∧ t = f s) := by
  unfold acceptCommand at h
  split at h
  · rename_i hr
    split at h
    · rename_i hf
      exact .inr (.inl ⟨hr, hf, (Host.Outcome.next.inj h).symm⟩)
    · rename_i hf
      exact .inr (.inr ⟨by simp [State.ready, hr, hf], (Host.Outcome.next.inj h).symm⟩)
  · rename_i hr
    exact .inl ⟨by simpa using hr, (Host.Outcome.next.inj h).symm⟩

/-! ## The meanings -/

theorem exec_scan (s : State) : exec .scan s = acceptCommand (goTo .oeoff) s := rfl

theorem exec_next (s : State) : exec .next s = acceptCommand (fun s => respond .ok (setPhase (s.phase + 1) s)) s := rfl

theorem exec_setph (n : BitVec 2) (s : State) : exec (.setph n) s = acceptCommand (fun s => respond .ok (setPhase n s)) s := rfl

theorem exec_oeoff (s : State) : exec .oeoff s = .next (goTo .rowsel (emit .oeOff (pinset .oe (!s.cfg.polOeOn) s))) := rfl

theorem exec_rowsel (s : State) : exec .rowsel s =
    .next (goTo .fetch (emit (.sel s.rowselCode)
      (setK 0 (pinset .b (s.rowselCode.getLsbD 1) (pinset .a (s.rowselCode.getLsbD 0) s))))) := rfl

theorem exec_fetch {s : State} (h : s.fetchIndex < s.fbLen) : exec .fetch s =
    .next (goTo .send (setSr (s.byteAt s.fetchIndex) (presentIndex s.fetchIndex s))) := by
  show execFetch s = _
  rw [execFetch, memRead_ok s h]

theorem exec_fetch_fault {s : State} (h : s.fbLen ≤ s.fetchIndex) : exec .fetch s = .fault (.noSuchByte s.fetchIndex) := by
  show execFetch s = _
  rw [execFetch, memRead_error s h]

/-- Everything `FETCH` can answer with a next state. -/
theorem exec_fetch_cases {s t : State} (h : exec .fetch s = .next t) :
    t = goTo .send (setSr (s.byteAt s.fetchIndex) (presentIndex s.fetchIndex s)) := by
  rcases Nat.lt_or_ge s.fetchIndex s.fbLen with hlt | hge
  · rw [exec_fetch hlt] at h
    exact (Host.Outcome.next.inj h).symm
  · rw [exec_fetch_fault hge] at h
    cases h

theorem exec_send (s : State) : exec .send s =
    .next (goTo (if s.k + 1 < s.streamLen then .fetch else .latchhi) (setK (s.k + 1) (emit (.tx s.sr) (serbyte s.sr s)))) := rfl

theorem exec_latchhi (s : State) : exec .latchhi s =
    .next (goTo .hold (emit .latAssert (pinset .lat s.cfg.polLatActive s))) := rfl

theorem exec_hold (s : State) : exec .hold s = .next (goTo .latchlo (emit .hold (emitPin .hold s))) := rfl

theorem exec_latchlo (s : State) : exec .latchlo s =
    .next (goTo .oeon (emit .latDeassert (pinset .lat (!s.cfg.polLatActive) s))) := rfl

theorem exec_oeon (s : State) : exec .oeon s = .next (respond .ok (goTo .idle (emit .oeOn (pinset .oe s.cfg.polOeOn s)))) := rfl

theorem exec_pindir (l : Line) (s : State) : exec (.pindir l) s = .next (pindir l s) := rfl

theorem exec_pinset (l : Line) (v : Level) (s : State) : exec (.pinset l v) s = .next (pinset l v s) := rfl

theorem exec_serbyte (b : Byte) (s : State) : exec (.serbyte b) s = .next (serbyte b s) := rfl

end Sys2Proof.Machine
end

