-- ==== Sys2Proof/Laws/Step.lean ====
section
/-! SUPPORT. Sys2Proof/Laws/Step.lean: what one step can do, said once (40_host_commands.md R110, 41_scan_sequence.md R130). -/

namespace Sys2Proof.Machine

/-- The micro-operation a position selects (R87). -/
def microOp : Position → Option Instr
  | .idle => none
  | .oeoff => some .oeoff
  | .rowsel => some .rowsel
  | .fetch => some .fetch
  | .send => some .send
  | .latchhi => some .latchhi
  | .hold => some .hold
  | .latchlo => some .latchlo
  | .oeon => some .oeon

theorem decode_position (p : Position) :
    decode (.uop p.code) = match microOp p with
      | some i => .ok i
      | none => .error .idlePosition := by
  cases p <;> rfl

theorem microOp_none {p : Position} : microOp p = none ↔ p = .idle := by
  cases p <;> simp [microOp]

theorem engineStep_rst {s : State} (h : s.rst = true) : engineStep s = .next s := by
  simp [engineStep, h]

theorem engineStep_micro {s : State} {i : Instr} (hr : s.rst = false) (hi : microOp s.seq = some i) : engineStep s = exec i s := by
  simp [engineStep, hr, decode_position, hi]

theorem engineStep_idle {s : State} (hr : s.rst = false) (hi : s.seq = .idle) : engineStep s = acceptWord s := by
  simp [engineStep, hr, decode_position, hi, microOp]

/-- Everything the engine can do when it is left to run. -/
theorem engineStep_cases {s t : State} (h : engineStep s = .next t) :
    (t = s ∧ (s.rst = true ∨ s.seq = .idle ∧ s.cmds = [])) ∨
    (∃ i, s.rst = false ∧ microOp s.seq = some i ∧ exec i s = .next t) ∨
    (∃ w rest, s.rst = false ∧ s.seq = .idle ∧ s.cmds = w :: rest ∧ issueWord w (holdWords rest s) = .next t) := by
  by_cases hr : s.rst = true
  · rw [engineStep_rst hr] at h
    exact .inl ⟨(Host.Outcome.next.inj h).symm, .inl hr⟩
  · have hr := Bool.eq_false_of_not_eq_true hr
    cases hm : microOp s.seq with
    | some i =>
      rw [engineStep_micro hr hm] at h
      exact .inr (.inl ⟨i, hr, rfl, h⟩)
    | none =>
      have hi := microOp_none.1 hm
      rw [engineStep_idle hr hi, acceptWord] at h
      split at h
      · rename_i hc
        exact .inl ⟨(Host.Outcome.next.inj h).symm, .inr ⟨hi, hc⟩⟩
      · rename_i w rest hc
        exact .inr (.inr ⟨w, rest, hr, hi, hc, h⟩)

/-- Everything the issue of a word can do (R110). -/
theorem issueWord_cases {w : BitVec 8} {s t : State} (h : issueWord w s = .next t) :
    (s.failed = true ∧ t = respond .errFailed s) ∨
    (s.failed = false ∧ (∃ e, decode (.cmd w) = .error e) ∧ t = respond .errIllegal s) ∨
    (s.failed = false ∧ ∃ i, decode (.cmd w) = .ok i ∧ exec i s = .next t) := by
  unfold issueWord at h
  split at h
  · rename_i hf
    exact .inl ⟨hf, (Host.Outcome.next.inj h).symm⟩
  · rename_i hf
    split at h
    · rename_i i hi
      exact .inr (.inr ⟨by simpa using hf, i, hi, h⟩)
    · rename_i e he
      exact .inr (.inl ⟨by simpa using hf, ⟨e, he⟩, (Host.Outcome.next.inj h).symm⟩)

/-- Only the three commands have command words (R82). -/
theorem decode_cmd_cases {w : BitVec 8} {i : Instr} (h : decode (.cmd w) = .ok i) :
    i = .scan ∨ i = .next ∨ ∃ n, i = .setph n := by
  simp only [decode, decodeCommand] at h
  split at h
  · exact .inl (Except.ok.inj h).symm
  · split at h
    · exact .inr (.inl (Except.ok.inj h).symm)
    · split at h
      · exact .inr (.inr ⟨_, (Except.ok.inj h).symm⟩)
      · cases h

theorem step_run {s : State} (h : s.runs) : step s = engineStep s.taken := by
  rcases h with h | ⟨rest, h⟩ <;> simp [step, State.taken, h, envStep]
  cases s
  simp_all

/-- Everything one step can do. -/
theorem step_cases {s t : State} (h : step s = .next t) :
    (∃ i v rest, s.env = .write i v :: rest ∧ t = hostWrite i v s.taken) ∨
    (∃ w h rest, s.env = .reset w h :: rest ∧ t = resetSequence w h s.taken) ∨
    (∃ rest, s.env = .holdReset :: rest ∧ t = teardown s.taken) ∨
    (s.runs ∧ engineStep s.taken = .next t) := by
  rcases he : s.env with _ | ⟨action, rest⟩
  · have hr : s.runs := .inl he
    exact .inr (.inr (.inr ⟨hr, step_run hr ▸ h⟩))
  · have ht : s.taken = { s with env := rest } := by simp [State.taken, he]
    rw [step, he] at h
    cases action with
    | run => exact .inr (.inr (.inr ⟨.inr ⟨rest, he⟩, by rw [ht]; exact h⟩))
    | write i v => exact .inl ⟨i, v, rest, rfl, by rw [ht]; exact (Host.Outcome.next.inj h).symm⟩
    | reset w h' => exact .inr (.inl ⟨w, h', rest, rfl, by rw [ht]; exact (Host.Outcome.next.inj h).symm⟩)
    | holdReset => exact .inr (.inr (.inl ⟨rest, rfl, by rw [ht]; exact (Host.Outcome.next.inj h).symm⟩))

/-- What the issue of a word to an idle engine leaves, when it is `u` with the word taken off the port. -/
theorem issueWord_effects {w : BitVec 8} {u t : State} (hr : u.rst = false) (hi : u.seq = .idle) (h : issueWord w u = .next t) :
    (∃ r, t = respond r u) ∨
    (u.failed = false ∧ (t = goTo .oeoff u ∨ ∃ p, t = respond .ok (setPhase p u))) := by
  rcases issueWord_cases h with ⟨_, rfl⟩ | ⟨_, _, rfl⟩ | ⟨hf, i, hd, he⟩
  · exact .inl ⟨_, rfl⟩
  · exact .inl ⟨_, rfl⟩
  · have hready : u.ready = true := (ready_iff u).2 ⟨hi, hr, hf⟩
    refine .inr ⟨hf, ?_⟩
    rcases decode_cmd_cases hd with rfl | rfl | ⟨n, rfl⟩
    · rw [exec_scan, acceptCommand_ready _ hready] at he
      exact .inl (Host.Outcome.next.inj he).symm
    · rw [exec_next, acceptCommand_ready _ hready] at he
      exact .inr ⟨_, (Host.Outcome.next.inj he).symm⟩
    · rw [exec_setph, acceptCommand_ready _ hready] at he
      exact .inr ⟨_, (Host.Outcome.next.inj he).symm⟩

/-- Everything one step can leave, over the state with the outside's action taken: what an invariant has to be kept by. -/
theorem step_effects {s t : State} (h : step s = .next t) :
    t = s.taken ∨
    (∃ i v, t = hostWrite i v s.taken) ∨
    (∃ w h, t = resetSequence w h s.taken) ∨
    t = teardown s.taken ∨
    (∃ i, s.taken.rst = false ∧ microOp s.taken.seq = some i ∧ exec i s.taken = .next t) ∨
    (∃ words, s.taken.rst = false ∧ s.taken.seq = .idle ∧
      ((∃ r, t = respond r (holdWords words s.taken)) ∨
        (s.taken.failed = false ∧ (t = goTo .oeoff (holdWords words s.taken) ∨
          ∃ p, t = respond .ok (setPhase p (holdWords words s.taken)))))) := by
  rcases step_cases h with ⟨i, v, _, _, rfl⟩ | ⟨w, h', _, _, rfl⟩ | ⟨_, _, rfl⟩ | ⟨_, hs⟩
  · exact .inr (.inl ⟨i, v, rfl⟩)
  · exact .inr (.inr (.inl ⟨w, h', rfl⟩))
  · exact .inr (.inr (.inr (.inl rfl)))
  · rcases engineStep_cases hs with ⟨rfl, _⟩ | ⟨i, hr, hm, he⟩ | ⟨w, rest, hr, hi, _, hw⟩
    · exact .inl rfl
    · exact .inr (.inr (.inr (.inr (.inl ⟨i, hr, hm, he⟩))))
    · exact .inr (.inr (.inr (.inr (.inr ⟨rest, hr, hi, issueWord_effects (u := holdWords rest s.taken) hr hi hw⟩))))

/-! ## Reset -/

theorem resetSequence_valid {w h : Nat} (s : State) (hv : topologyValid w h = true) :
    resetSequence w h s = resetValid (resetCommon w h s) := by simp [resetSequence, hv]

theorem resetSequence_invalid {w h : Nat} (s : State) (hv : topologyValid w h = false) :
    resetSequence w h s = resetInvalid (resetCommon w h s) := by simp [resetSequence, hv]

/-- The six directions set, in the order of R231, one record. -/
theorem resetValid_eq (s : State) : resetValid s =
    { s with
      failed := false
      phase := s.cfg.phaseReset
      lvl := Lines.resetLevels s.cfg
      dir := Lines.all .out
      pinTrace := s.pinTrace ++ resetPinTrace } := by
  simp [resetValid, allLines, pindir, emitPin, Lines.set, Lines.all, resetPinTrace]

/-- The state right after reset is what the reset sequence gives, but for the free values of its era. -/
theorem reset_eq_resetSequence : State.reset =
    { resetSequence 1 1 State.reset with
      sr := Config.freeSr 0
      bitn := Config.freeBitn 0
      resetEra := 0 } := by
  rw [resetSequence_valid _ rfl, resetValid_eq]
  rfl

end Sys2Proof.Machine
end

