-- ==== Sys2Proof/Laws/Trace.lean ====
section
/-! SUPPORT. Sys2Proof/Laws/Trace.lean: the readers of the traces over one more event (42_pin_serial_primitives.md R166,
70_reset_and_hazards.md R242). -/

namespace Sys2Proof.Machine

/-! ## The bytes and the code of the current scan -/

@[simp] theorem sentBytes_nil : sentBytes [] = [] := rfl
@[simp] theorem sentBytes_sel (t : List ByteEvent) (c : BitVec 2) : sentBytes (t ++ [.sel c]) = [] := by simp [sentBytes]
@[simp] theorem sentBytes_tx (t : List ByteEvent) (b : Byte) : sentBytes (t ++ [.tx b]) = sentBytes t ++ [b] := by simp [sentBytes]
@[simp] theorem sentBytes_oeOff (t : List ByteEvent) : sentBytes (t ++ [.oeOff]) = sentBytes t := by simp [sentBytes]
@[simp] theorem sentBytes_oeOn (t : List ByteEvent) : sentBytes (t ++ [.oeOn]) = sentBytes t := by simp [sentBytes]
@[simp] theorem sentBytes_latAssert (t : List ByteEvent) : sentBytes (t ++ [.latAssert]) = sentBytes t := by simp [sentBytes]
@[simp] theorem sentBytes_hold (t : List ByteEvent) : sentBytes (t ++ [.hold]) = sentBytes t := by simp [sentBytes]
@[simp] theorem sentBytes_latDeassert (t : List ByteEvent) : sentBytes (t ++ [.latDeassert]) = sentBytes t := by simp [sentBytes]

@[simp] theorem sentCode_nil : sentCode [] = none := rfl
@[simp] theorem sentCode_sel (t : List ByteEvent) (c : BitVec 2) : sentCode (t ++ [.sel c]) = some c := by simp [sentCode]
@[simp] theorem sentCode_tx (t : List ByteEvent) (b : Byte) : sentCode (t ++ [.tx b]) = sentCode t := by simp [sentCode]
@[simp] theorem sentCode_oeOff (t : List ByteEvent) : sentCode (t ++ [.oeOff]) = sentCode t := by simp [sentCode]
@[simp] theorem sentCode_oeOn (t : List ByteEvent) : sentCode (t ++ [.oeOn]) = sentCode t := by simp [sentCode]
@[simp] theorem sentCode_latAssert (t : List ByteEvent) : sentCode (t ++ [.latAssert]) = sentCode t := by simp [sentCode]
@[simp] theorem sentCode_hold (t : List ByteEvent) : sentCode (t ++ [.hold]) = sentCode t := by simp [sentCode]
@[simp] theorem sentCode_latDeassert (t : List ByteEvent) : sentCode (t ++ [.latDeassert]) = sentCode t := by simp [sentCode]

/-! ## The reader of the pin-level trace -/

@[simp] theorem readPins_nil (c : Config) : readPins c [] = PinReader.start := rfl

@[simp] theorem readPins_append (c : Config) (t u : List PinEvent) : readPins c (t ++ u) = u.foldl (readPin c) (readPins c t) := by
  simp [readPins]

/-- The 24 events of a byte read from the start of a byte are one `TX` event (R166). -/
theorem readPins_serialEvents (c : Config) (b : Byte) {r : PinReader} (h : r.bits = []) :
    (serialEvents c b).foldl (readPin c) r = { r with data := b.getLsbD 0, events := r.events ++ [.tx b] } := by
  have hb := byteOf_byteBits c.serBitOrder b
  rw [byteBits_eq] at hb
  simp [serialEvents, byteBits_eq, readPin, PinReader.say, h]
  simpa using hb

/-! ## The watch over the pin-level trace -/

@[simp] theorem watchPins_nil (c : Config) (n : Nat) : watchPins c n [] = some LineWatch.start := rfl

@[simp] theorem watchPins_append (c : Config) (n : Nat) (t u : List PinEvent) :
    watchPins c n (t ++ u) = u.foldl (watchPin c n) (watchPins c n t) := by
  simp [watchPins]

/-- The 24 events of a byte are eight clock pulses, allowed while the output is off and the latch deasserted (R242). -/
theorem watchPins_serialEvents (c : Config) (n : Nat) (b : Byte) {w : LineWatch} (ho : w.outputOn = false) (hl : w.latched = false) :
    (serialEvents c b).foldl (watchPin c n) (some w) = some { w with pulses := w.pulses.map (· + 8) } := by
  rcases w with ⟨on, latched, held, _ | p⟩ <;> simp only at ho hl <;> subst ho hl <;>
    simp [serialEvents, byteBits_eq, watchPin]

end Sys2Proof.Machine
end

