-- ==== Sys2Proof/Laws/Run.lean ====
section
/-! SUPPORT. Sys2Proof/Laws/Run.lean: several steps, and one step when the outside leaves the engine alone (41_scan_sequence.md R130, R140). -/

namespace Sys2Proof.Machine

theorem run_zero (s : State) : Sys2Proof.core.run 0 s = .next s := rfl

/-- The first of several steps, of any machine. -/
theorem core_run_succ (M : Host.Core) {s t : M.State} (n : Nat) (h : M.step s = .next t) : M.run (n + 1) s = M.run n t := by
  simp only [Host.Core.run, h]

/-- Some steps of any machine, then others. -/
theorem core_run_add (M : Host.Core) {s t : M.State} {m : Nat} (n : Nat) (h : M.run m s = .next t) : M.run (m + n) s = M.run n t := by
  induction m generalizing s with
  | zero =>
    cases h
    rw [Nat.zero_add]
  | succ m ih =>
    rw [Nat.add_right_comm]
    simp only [Host.Core.run] at h ⊢
    split at h
    · exact ih h
    · cases h
    · cases h

/-- The first of several steps. -/
theorem run_succ {s t : State} (n : Nat) (h : step s = .next t) : Sys2Proof.core.run (n + 1) s = Sys2Proof.core.run n t :=
  core_run_succ Sys2Proof.core n h

/-- Some steps, then others. -/
theorem run_add {s t : State} {m : Nat} (n : Nat) (h : Sys2Proof.core.run m s = .next t) :
    Sys2Proof.core.run (m + n) s = Sys2Proof.core.run n t :=
  core_run_add Sys2Proof.core n h

theorem taken_eq_self {s : State} (h : s.env = []) : s.taken = s := by
  ext1 <;> simp [State.taken, h]

/-- The engine left alone runs the micro-operation of its position. -/
theorem step_micro {s : State} {i : Instr} (he : s.env = []) (hr : s.rst = false) (hm : microOp s.seq = some i) :
    step s = exec i s := by
  rw [step_run (.inl he), taken_eq_self he, engineStep_micro hr hm]

/-- The idle engine left alone issues the word at the port (R110). -/
theorem step_issue {s : State} {w : BitVec 8} {rest : List (BitVec 8)} (he : s.env = []) (hr : s.rst = false)
    (hi : s.seq = .idle) (hc : s.cmds = w :: rest) : step s = issueWord w (holdWords rest s) := by
  rw [step_run (.inl he), taken_eq_self he, engineStep_idle hr hi, acceptWord, hc]

/-- The engine that is ready performs a legal word. -/
theorem issueWord_ok {s : State} {w : BitVec 8} {i : Instr} (hf : s.failed = false) (hd : decode (.cmd w) = .ok i) :
    issueWord w s = exec i s := by
  simp [issueWord, hf, hd]

/-- The first entries of a table, one more. -/
theorem take_succ_range {α : Type} (f : Nat → α) {j n : Nat} (h : j < n) :
    ((List.range n).map f).take (j + 1) = ((List.range n).map f).take j ++ [f j] := by
  rw [List.take_add_one]
  simp [h]

end Sys2Proof.Machine
end

