-- ==== Sys2Proof/Laws/Invariants.lean ====
section
/-! SUPPORT. Sys2Proof/Laws/Invariants.lean: small consequences of the invariants, and that they do not look at the outside's actions. -/

namespace Sys2Proof.Machine

/-- A scan in progress means a working engine (R202, R233). -/
theorem working_of_busy {s : State} (h : Inv s) (hb : s.seq ≠ .idle) : s.working = true := by
  by_contra hw
  exact hb (h.stopped (Bool.eq_false_of_not_eq_true hw))

/-- An engine that has not failed has a panel at least (R7). -/
theorem panels_pos {s : State} (h : Inv s) (hf : s.failed = false) : 0 < s.panels := by
  have hv : 1 ≤ s.panelsWide ∧ 1 ≤ s.panelsHigh := by simpa [hf, topologyValid] using h.failed
  exact Nat.mul_pos hv.1 hv.2

theorem streamLen_pos {s : State} (h : Inv s) (hf : s.failed = false) : 0 < s.streamLen :=
  Nat.mul_pos (by decide) (panels_pos h hf)

/-- A working engine drives all its lines (R29). -/
theorem dir_of_working {s : State} (h : Inv s) (hw : s.working = true) : s.dir = Lines.all .out := by
  rw [h.directions, hw]
  rfl

/-- The topology fits the address port (R7, D21). -/
theorem addressFits_iff (s : State) : s.addressFits = true ↔ 64 * s.panels ≤ 2 ^ s.cfg.addressWidth :=
  decide_eq_true_iff

/-- With the output off no LED is lit (R185). -/
theorem ledLit_of_off {s : State} (h : s.oeOn = false) (j r xl : Nat) : s.ledLit j r xl = false := by
  simp [State.ledLit, h]

theorem inv_taken {s : State} (h : Inv s) : Inv s.taken :=
  ⟨h.memory, h.failed, h.stopped, h.counting, h.counted, h.directions, h.clock, h.latch, h.dark, h.select⟩

theorem darkBeforeOeon_taken {s : State} (h : DarkBeforeOeon s) : DarkBeforeOeon s.taken := h

theorem panelInv_taken {s : State} (h : PanelInv s) : PanelInv s.taken := ⟨h.shifting, h.shifted, h.shown, h.code⟩

theorem orderInv_taken {s : State} (h : OrderInv s) : OrderInv s.taken := ⟨h.watched⟩

end Sys2Proof.Machine
end

