-- ==== Sys2Proof/Laws/PerInstr.lean ====
section
/-! SUPPORT. Sys2Proof/Laws/PerInstr.lean: statements about every instruction as syntax, one lemma a constructor. -/

namespace Sys2Proof.Laws.EncodesWell

/-- The encoding of a well-formed instruction is a well-formed word of its format (30_encoding.md R82, R87, R94, R99). -/
def Statement (i : Instr) : Prop := i.wf = true → (encode i).wf = true

theorem scan : Statement .scan := fun _ => rfl
theorem next : Statement .next := fun _ => rfl
theorem setph (n : BitVec 2) : Statement (.setph n) := fun _ => by
  revert n
  decide
theorem oeoff : Statement .oeoff := fun _ => rfl
theorem rowsel : Statement .rowsel := fun _ => rfl
theorem fetch : Statement .fetch := fun _ => rfl
theorem send : Statement .send := fun _ => rfl
theorem latchhi : Statement .latchhi := fun _ => rfl
theorem hold : Statement .hold := fun _ => rfl
theorem latchlo : Statement .latchlo := fun _ => rfl
theorem oeon : Statement .oeon := fun _ => rfl
theorem pindir (line : Line) : Statement (.pindir line) := fun h => h
theorem pinset (line : Line) (level : Level) : Statement (.pinset line level) := fun _ => by
  cases line <;> cases level <;> decide
theorem serbyte (b : Byte) : Statement (.serbyte b) := fun _ => rfl

end Sys2Proof.Laws.EncodesWell
end

