-- ==== Sys2Proof/Laws/Scan.lean ====
section
/-! SUPPORT. Sys2Proof/Laws/Scan.lean: the byte loop of a scan, `FETCH` and `SEND`, once round and all the way round (41_scan_sequence.md
R133 to R135). -/

namespace Sys2Proof.Machine

/-- What holds of `u` after `j` rounds of the loop of a scan whose inputs are `s`. -/
structure LoopState (s u : State) (j : Nat) : Prop where
  rst : u.rst = false
  env : u.env = []
  seq : u.seq = if j < s.streamLen then .fetch else .latchhi
  k : u.k = j
  cfg : u.cfg = s.cfg
  panelsWide : u.panelsWide = s.panelsWide
  panelsHigh : u.panelsHigh = s.panelsHigh
  phase : u.phase = s.phase
  failed : u.failed = s.failed
  mem : u.mem = s.mem
  memEra : u.memEra = s.memEra
  dir : u.dir = Lines.all .out
  cmds : u.cmds = s.cmds
  responses : u.responses = s.responses
  lat : u.lvl.lat = !s.cfg.polLatActive
  sel : u.sel = s.rowselCode
  sclk : u.lvl.sclk = s.cfg.sclkIdle
  byteTrace : u.byteTrace = s.byteTrace ++ .oeOff :: .sel s.rowselCode :: (s.scanBytes.take j).map .tx
  pinTrace : u.pinTrace = s.pinTrace ++ PinEvent.set .oe (!s.cfg.polOeOn) :: PinEvent.set .a (s.rowselCode.getLsbD 0) ::
    PinEvent.set .b (s.rowselCode.getLsbD 1) :: (s.scanBytes.take j).flatMap (serialEvents s.cfg)
  fbReads : u.fbReads = s.fbReads ++ s.scanIndices.take j
  sr : 0 < j → (s.scanBytes.take j).getLast? = some u.sr ∧ u.lvl.sdata = u.sr.getLsbD 0
  chain : s.panelFits → u.panelFits ∧ u.panel.rx.drop (s.streamLen - j) = s.scanBytes.take j

/-- The bytes of a scan, one more. -/
theorem scanBytes_take_succ {s : State} {j : Nat} (h : j < s.streamLen) :
    s.scanBytes.take (j + 1) = s.scanBytes.take j ++ [s.byteAt (src s.cfg.streamOrder s.panels s.phase j)] :=
  take_succ_range _ h

theorem scanIndices_take_succ {s : State} {j : Nat} (h : j < s.streamLen) :
    s.scanIndices.take (j + 1) = s.scanIndices.take j ++ [src s.cfg.streamOrder s.panels s.phase j] :=
  take_succ_range _ h

@[simp] theorem scanBytes_length (s : State) : s.scanBytes.length = s.streamLen := by simp [State.scanBytes]

@[simp] theorem scanIndices_length (s : State) : s.scanIndices.length = s.streamLen := by simp [State.scanIndices]

/-- One round of the loop. -/
theorem loop_round {s u : State} {j : Nat} (h : LoopState s u j) (hj : j < s.streamLen) :
    ∃ v : State, Sys2Proof.core.run 2 u = .next v ∧ LoopState s v (j + 1) := by
  have hseq : u.seq = .fetch := by rw [h.seq, if_pos hj]
  have hP : u.panels = s.panels := by simp [State.panels, h.panelsWide, h.panelsHigh]
  have hL : u.streamLen = s.streamLen := by simp [State.streamLen, hP]
  have hindex : u.fetchIndex = src s.cfg.streamOrder s.panels s.phase j := by simp [State.fetchIndex, h.cfg, hP, h.phase, h.k]
  have hbyte : u.byteAt u.fetchIndex = s.byteAt (src s.cfg.streamOrder s.panels s.phase j) := by
    rw [hindex]
    simp [State.byteAt, h.mem, h.memEra]
  have hfetch : step u = _ :=
    (step_micro h.env h.rst (by rw [hseq]; rfl)).trans (exec_fetch (fetchIndex_lt (by rw [h.k, hL]; exact hj)))
  have hbytes := scanBytes_take_succ hj
  rw [run_succ _ hfetch, hbyte]
  generalize s.byteAt (src s.cfg.streamOrder s.panels s.phase j) = b at hbytes
  have hsend : step (goTo .send (setSr b (presentIndex u.fetchIndex u))) = _ :=
    (step_micro (s := goTo .send (setSr b (presentIndex u.fetchIndex u))) (i := .send) h.env h.rst rfl).trans (exec_send _)
  rw [run_succ _ hsend]
  refine ⟨_, rfl, ?_⟩
  constructor
  case seq => simp [h.k, hL]
  case k => simp [h.k]
  case byteTrace => simp [h.byteTrace, hbytes]
  case pinTrace => simp [h.pinTrace, hbytes, h.cfg]
  case fbReads => simp [h.fbReads, scanIndices_take_succ hj, hindex]
  case sr => simp [hbytes]
  case sel => simpa [State.sel] using h.sel
  case chain =>
    intro hfits
    obtain ⟨hfits', hrx⟩ := h.chain hfits
    have hlen : u.panel.chain.length = 8 * s.streamLen := by
      rw [hfits', State.streamLen, hP]
      ring
    have hrx' := serbyte_rx (s := goTo .send (setSr b (presentIndex u.fetchIndex u))) b (n := s.streamLen)
      (by simp [h.dir, Lines.all]) (by simp [h.sclk, h.cfg]) (by simpa using hlen)
    refine ⟨by simpa [State.panelFits] using hfits', ?_⟩
    simp only [goTo_panel, setK_panel, emit_panel, goTo_sr, setSr_sr]
    rw [hrx', List.drop_drop, hbytes, ← hrx, show 1 + (s.streamLen - (j + 1)) = s.streamLen - j by omega]
    exact List.drop_append_of_le_length (by rw [goTo_panel, setSr_panel, presentIndex_panel, rx_length hlen]; omega)
  all_goals simp [h.rst, h.env, h.cfg, h.panelsWide, h.panelsHigh, h.phase, h.failed, h.mem, h.memEra, h.dir, h.cmds, h.responses, h.lat]

/-- The whole loop. -/
theorem loop_all {s u : State} (h : LoopState s u 0) {j : Nat} (hj : j ≤ s.streamLen) :
    ∃ v : State, Sys2Proof.core.run (2 * j) u = .next v ∧ LoopState s v j := by
  induction j with
  | zero => exact ⟨u, rfl, h⟩
  | succ j ih =>
    obtain ⟨v, hv, hloop⟩ := ih (by omega)
    obtain ⟨w, hw, hloop'⟩ := loop_round hloop (by omega)
    exact ⟨w, by rw [Nat.mul_succ, run_add _ hv, hw], hloop'⟩

/-- The first two micro-operations of a scan lead to the loop. -/
theorem loop_start {s : State} (hseq : s.seq = .oeoff) (henv : s.env = []) (hrst : s.rst = false) (hdir : s.dir = Lines.all .out)
    (hlen : 0 < s.streamLen) (hlat : s.latAsserted = false) (hclk : s.clockIdle = true) :
    ∃ u : State, Sys2Proof.core.run 2 s = .next u ∧ LoopState s u 0 := by
  have hoff := (step_micro henv hrst (by rw [hseq]; rfl)).trans (exec_oeoff s)
  rw [run_succ _ hoff]
  have hsel := (step_micro (s := goTo .rowsel (emit .oeOff (pinset .oe (!s.cfg.polOeOn) s))) (i := .rowsel)
    (by simp [henv]) (by simp [hrst]) rfl).trans (exec_rowsel _)
  rw [run_succ _ hsel]
  refine ⟨_, rfl, ?_⟩
  have hlat' : s.lvl.lat = !s.cfg.polLatActive := by
    simpa [State.latAsserted, Bool.eq_not] using hlat
  have hclk' : s.lvl.sclk = s.cfg.sclkIdle := by simpa [State.clockIdle] using hclk
  constructor
  case seq => simp [hlen]
  case sel => simpa [State.sel] using code_bits s.rowselCode
  case chain =>
    intro hfits
    refine ⟨by simpa [State.panelFits] using hfits, ?_⟩
    have hbits : s.panel.chain.length = 8 * s.streamLen := by
      rw [hfits, State.streamLen]
      ring
    simpa using (rx_length hbits).le
  all_goals simp [henv, hrst, hdir, hlat', hclk']

/-- The last four micro-operations of a scan, from the end of the loop: everything they change. -/
theorem loop_end {s u : State} (h : LoopState s u s.streamLen) : Sys2Proof.core.run 4 u = .next
    { u with
      seq := .idle
      lvl := { u.lvl with lat := !s.cfg.polLatActive, oe := s.cfg.polOeOn }
      panel := { u.panel with latched := u.panel.rx }
      responses := u.responses ++ [.ok]
      byteTrace := u.byteTrace ++ [.latAssert, .hold, .latDeassert, .oeOn]
      pinTrace := u.pinTrace ++
        [.set .lat s.cfg.polLatActive, .hold, .set .lat (!s.cfg.polLatActive), .set .oe s.cfg.polOeOn] } := by
  have hseq : u.seq = .latchhi := by simp [h.seq]
  have hlatch := (step_micro h.env h.rst (by rw [hseq]; rfl)).trans (exec_latchhi u)
  rw [run_succ _ hlatch]
  generalize hv : goTo .hold (emit .latAssert (pinset .lat u.cfg.polLatActive u)) = v
  have hhold : step v = _ := (step_micro (i := .hold) (by simp [← hv, h.env]) (by simp [← hv, h.rst]) (by simp [← hv, microOp])).trans (exec_hold v)
  rw [run_succ _ hhold]
  generalize hw : goTo .latchlo (emit .hold (emitPin .hold v)) = w
  have hlow : step w = _ := (step_micro (i := .latchlo) (by simp [← hw, ← hv, h.env]) (by simp [← hw, ← hv, h.rst])
    (by simp [← hw, microOp])).trans (exec_latchlo w)
  rw [run_succ _ hlow]
  generalize hx : goTo .oeon (emit .latDeassert (pinset .lat (!w.cfg.polLatActive) w)) = x
  have hon : step x = _ := (step_micro (i := .oeon) (by simp [← hx, ← hw, ← hv, h.env]) (by simp [← hx, ← hw, ← hv, h.rst])
    (by simp [← hx, microOp])).trans (exec_oeon x)
  rw [run_succ _ hon, run_zero]
  refine congrArg Host.Outcome.next (State.ext ?_ ?_ ?_ ?_ ?_ ?_ ?_ ?_ ?_ ?_ ?_ ?_ ?_ ?_ ?_ ?_ ?_ ?_ ?_ ?_ ?_ ?_)
  all_goals subst hx hw hv
  all_goals simp [h.cfg, Lines.set, Panel.react, h.lat, State.pad, h.dir, Lines.all, Lines.get, Panel.latch]

end Sys2Proof.Machine
end

