-- ==== Sys2Proof/Tests/Slice0.lean ====
section
/-! SUPPORT. Sys2Proof/Tests/Slice0.lean: the checks refuse ill-formed terms, words written out from the spec decode to their operations, one
step of each operation gives the spec's vector (95_test_vectors.md 2.1 to 2.8), and for each statement a concrete state that meets its
hypotheses. Expected values are the spec's tables, not the model's answers. -/

namespace Sys2Proof.Tests

open Sys2Proof Sys2Proof.Machine

/-! ## Well-formedness: each check refuses something -/

theorem test_cmd_opcode_refused : cmdWordWf 0x40#8 = false ∧ cmdWordWf 0x00#8 = false ∧ cmdWordWf 0xFF#8 = false := by decide
theorem test_cmd_reserved_refused : cmdWordWf 0x14#8 = false ∧ cmdWordWf 0x2C#8 = false ∧ cmdWordWf 0x34#8 = false := by decide
theorem test_cmd_phase_field_refused : cmdWordWf 0x11#8 = false ∧ cmdWordWf 0x22#8 = false := by decide
theorem test_position_refused : positionCodeWf 0#4 = false ∧ positionCodeWf 9#4 = false ∧ positionCodeWf 15#4 = false := by decide
theorem test_line_refused : lineIndexWf 6#3 = false ∧ lineIndexWf 7#3 = false := by decide
theorem test_encoded_refused :
    (Encoded.cmd 0x3F#8).wf = false ∧ (Encoded.uop 0#4).wf = false ∧ (Encoded.pindir 6#3).wf = false ∧
      (Encoded.pinset 0b1100#4).wf = false := by decide
theorem test_codes_refused : Codes.bijective ⟨0, 0, 1, 2⟩ = false := by decide
theorem test_config_refused :
    Config.wf { Config.default with rowselCode := ⟨1, 1, 2, 3⟩ } = false ∧
      Config.wf { Config.default with panelRowdec := ⟨0, 1, 2, 2⟩ } = false ∧
      Config.wf { Config.default with tLatchMinUs := 9 } = false := by decide
theorem test_address_width_refused : State.reset.addressFits = true ∧
    (State.afterReset Config.default 2 1).addressFits = false := by decide
theorem test_topology_refused : topologyValid 0 1 = false ∧ topologyValid 1 0 = false := by decide
theorem test_default_accepted : Config.default.wf = true ∧ topologyValid 1 1 = true := by decide

/-! ## Decoding: words from 30_encoding.md R82, R87, R94 and 95_test_vectors.md 2.1 -/

theorem test_decode_commands : decode (.cmd 0b00010000#8) = .ok .scan ∧ decode (.cmd 0b00100000#8) = .ok .next ∧
    decode (.cmd 0b00110001#8) = .ok (.setph 1) ∧ decode (.cmd 0b00110010#8) = .ok (.setph 2) := by decide
theorem test_decode_illegal : [0x11#8, 0x14#8, 0x22#8, 0x2C#8, 0x34#8, 0x38#8, 0x3F#8, 0x00#8, 0x40#8, 0xFF#8].all
    (fun w => decide (decode (.cmd w) = .error .illegalCommand)) = true := by decide
theorem test_decode_positions : decode (.uop 0b0001#4) = .ok .oeoff ∧ decode (.uop 0b0010#4) = .ok .rowsel ∧
    decode (.uop 0b0011#4) = .ok .fetch ∧ decode (.uop 0b0100#4) = .ok .send ∧ decode (.uop 0b0101#4) = .ok .latchhi ∧
    decode (.uop 0b0110#4) = .ok .hold ∧ decode (.uop 0b0111#4) = .ok .latchlo ∧ decode (.uop 0b1000#4) = .ok .oeon := by decide
theorem test_decode_no_position : decode (.uop 0#4) = .error .idlePosition ∧ decode (.uop 9#4) = .error .noSuchPosition := by decide
theorem test_decode_primitives : decode (.pindir 0b011#3) = .ok (.pindir .sclk) ∧ decode (.pinset 0b1010#4) = .ok (.pinset .lat false) ∧
    decode (.pinset 0b0101#4) = .ok (.pinset .b true) ∧ decode (.serbyte 0b10100101#8) = .ok (.serbyte 0xA5#8) := by decide
theorem test_table_words : decodeTableWord 8 0x33 = some (.setph 3) ∧ decodeTableWord 8 8 = some .oeon ∧
    decodeTableWord 8 0 = none ∧ decodeTableWord 8 0x15 = none := by decide
theorem test_assembler : assemble "SETPH 3 ; set\nHOME\nFRAME".toList =
    some [0x33#8, 0x30#8, 0x10#8, 0x20#8, 0x10#8, 0x20#8, 0x10#8, 0x20#8, 0x10#8, 0x20#8] := by decide
theorem test_assembler_refuses : assemble "SETPH 4".toList = none ∧ assemble "scan".toList = none := by decide

/-! ## One step of each operation (95_test_vectors.md 2.2, 2.4, 2.5, 2.7) -/

/-- One panel right after reset, at a position, phase and count, with the output on. -/
def small (seq : Position) (phase : BitVec 2) (k : Nat) : State :=
  { State.reset with
    seq := seq
    phase := phase
    k := k
    sr := 0x01#8
    mem := [(59, 0x01#8)]
    lvl := { State.reset.lvl with oe := true } }

/-- What is read of the next state an operation answers. -/
def after {α : Type} (o : Host.Outcome State Fault Refusal) (f : State → α) : Option α :=
  match o with
  | .next t => some (f t)
  | .fault _ | .refused _ => none

theorem test_scan : after (exec .scan (small .idle 1 0)) (fun t => (t.seq, t.phase, t.responses)) = some (.oeoff, 1, []) := by decide
theorem test_next_wraps : after (exec .next (small .idle 3 0)) (fun t => (t.phase, t.responses)) = some (0, [.ok]) := by decide
theorem test_setph : after (exec (.setph 3) (small .idle 0 0)) (fun t => (t.phase, t.responses)) = some (3, [.ok]) := by decide
theorem test_oeoff : after (exec .oeoff (small .oeoff 0 0)) (fun t => (t.lvl.oe, t.seq, t.byteTrace)) =
    some (false, .rowsel, [.oeOff]) := by decide
theorem test_rowsel : after (exec .rowsel (small .rowsel 1 7)) (fun t => (t.lvl.a, t.lvl.b, t.k, t.seq, t.byteTrace)) =
    some (true, false, 0, .fetch, [.sel 1]) := by decide
theorem test_fetch : after (exec .fetch (small .fetch 2 3)) (fun t => (t.sr, t.seq, t.fbReads)) = some (0x01#8, .send, [59]) := by decide
theorem test_send_loops : after (exec .send (small .send 2 3)) (fun t => (t.k, t.seq, t.lvl.sdata, t.lvl.sclk, t.byteTrace)) =
    some (4, .fetch, true, false, [.tx 0x01#8]) := by decide
theorem test_send_ends : after (exec .send (small .send 2 15)) (fun t => (t.k, t.seq)) = some (16, .latchhi) := by decide
theorem test_latchhi : after (exec .latchhi (small .latchhi 0 16)) (fun t => (t.lvl.lat, t.seq, t.byteTrace)) =
    some (true, .hold, [.latAssert]) := by decide
theorem test_hold : after (exec .hold (small .hold 0 16)) (fun t => (t.seq, t.byteTrace, t.pinTrace.getLast?)) =
    some (.latchlo, [.hold], some .hold) := by decide
theorem test_latchlo : after (exec .latchlo { small .latchlo 0 16 with lvl := ⟨false, false, false, false, false, true⟩ })
    (fun t => (t.lvl.lat, t.seq, t.byteTrace)) = some (false, .oeon, [.latDeassert]) := by decide
theorem test_oeon : after (exec .oeon { small .oeon 0 16 with lvl := Lines.all false })
    (fun t => (t.lvl.oe, t.seq, t.responses)) = some (true, .idle, [.ok]) := by decide
theorem test_pindir : after (exec (.pindir .lat) { State.reset with dir := Lines.all .inward })
    (fun t => (t.dir.lat, t.dir.oe, t.pad .lat)) = some (.out, .inward, some false) := by decide
theorem test_pinset_same_level : after (exec (.pinset .a false) State.reset) (fun t => (t.lvl.a, t.pinTrace.getLast?)) =
    some (false, some (.set .a false)) := by decide
/-- The data values of the eight triples of 0xA5, in time order (95_test_vectors.md 2.5). -/
theorem test_serbyte : after (exec (.serbyte 0xA5#8) State.reset)
    (fun t => t.pinTrace.filterMap fun e => match e with | .set .sdata d => some d | _ => none) =
    some [true, false, true, false, false, true, false, true] := by decide
theorem test_reset_one_panel : (resetSequence 1 1 (small .send 0 7)).seq = .idle ∧ (resetSequence 1 1 (small .send 0 7)).k = 0 ∧
    (resetSequence 1 1 (small .send 0 7)).lvl = Lines.all false ∧ (resetSequence 1 1 (small .send 0 7)).byteTrace = [] := by decide
theorem test_reset_no_panel : (resetSequence 0 1 (small .send 0 7)).failed = true ∧
    (resetSequence 0 1 (small .send 0 7)).dir = Lines.all .inward ∧ (resetSequence 0 1 (small .send 0 7)).pinTrace = [] := by decide

/-- The panel after the third scan of 95_test_vectors.md P2: the LED at (31, 15) is lit (2.9). -/
def lit : State :=
  { State.reset with
    lvl := ⟨true, false, true, false, false, false⟩
    panel := { chain := [], latched := [0, 0, 0, 0x01, 0, 0, 0, 0, 0, 0, 0, 0, 0, 0, 0, 0] } }

theorem test_led : lit.pixelLit 31 15 = true ∧ lit.pixelLit 30 15 = false ∧ lit.pixelLit 31 14 = false := by decide
/-- With one panel more on the chain than the topology says, panel 0 shows the last scan's bytes and the panel beyond the earlier ones (R191). -/
def longer : State := { lit with panel := { lit.panel with latched := List.replicate 16 0xFF#8 ++ lit.panel.latched } }

theorem test_longer_chain : longer.ledLit 0 15 31 = true ∧ longer.ledLit 0 15 30 = false ∧ longer.ledLit 1 15 30 = true := by decide
theorem test_shift : (Panel.shift { chain := [true, false, false], latched := [] } false).chain = [false, true, false] := by decide

/-! ## Tables (95_test_vectors.md 2.3, 2.8, V3, V5) -/

theorem test_stream_grouped : (List.range 16).map (src .grouped 1 2) =
    [56, 57, 58, 59, 40, 41, 42, 43, 24, 25, 26, 27, 8, 9, 10, 11] := by decide
theorem test_stream_interleaved : (List.range 32).map (src .interleaved 2 0) =
    [96, 64, 32, 0, 97, 65, 33, 1, 98, 66, 34, 2, 99, 67, 35, 3, 100, 68, 36, 4, 101, 69, 37, 5, 102, 70, 38, 6, 103, 71, 39, 7] := by decide
theorem test_row_remap : (List.range 16).map remapRow = [3, 0, 1, 2, 7, 4, 5, 6, 11, 8, 9, 10, 15, 12, 13, 14] := by decide
theorem test_pixel_index : pixelIndex 2 4 40 21 = 77 ∧ pixelMask 2 40 21 = 0x80#8 ∧ pixelIndex 3 3 95 7 = 83 ∧ pixelMask 3 95 7 = 0x01#8 := by
  decide

/-! ## Witnesses: a concrete state and operands for the hypotheses of each statement -/

/-- Right after reset, with words at the port. -/
def waiting (words : List (BitVec 8)) : State := { State.reset with cmds := words }

/-- After a reset with no panel. -/
def failedState : State := { resetSequence 0 1 State.reset with cmds := [0x10#8] }

/-- Under a held reset. -/
def heldState : State := teardown (waiting [0x10#8])

/-- In a scan of phase 0, output off. -/
def inScan (seq : Position) (k : Nat) : State := { State.reset with seq := seq, k := k, sr := 0x81#8, bitn := 5 }

theorem witness_LegalCommandWordsAreTheSix : ∀ i, decode (.cmd 0x11#8) ≠ .ok i := fun _ h => nomatch h
theorem witness_DecodeOfEncodeIsTheInstruction : (Instr.pinset .lat true).wf = true := by decide
theorem witness_DecodedWordIsTheEncoding :
    decode (.pinset 0b1011#4) = .ok (.pinset .lat true) ∧ (Encoded.pinset 0b1011#4).wf = true := by decide
theorem witness_StepRunsTheDecodedOperation_position :
    (inScan .hold 16).runs ∧ (inScan .hold 16).rst = false ∧ decode (.uop (inScan .hold 16).seq.code) = .ok .hold :=
  ⟨.inl rfl, rfl, rfl⟩
theorem witness_StepRunsTheDecodedOperation_command :
    (waiting [0x20#8]).runs ∧ (waiting [0x20#8]).rst = false ∧ (waiting [0x20#8]).failed = false ∧ (waiting [0x20#8]).seq = .idle ∧
      (waiting [0x20#8]).cmds = 0x20#8 :: [] ∧ decode (.cmd 0x20#8) = .ok .next :=
  ⟨.inl rfl, rfl, rfl, rfl, rfl, rfl⟩
theorem witness_PlacedTableWordRunsNext : decodeTableWord 8 0x10 = some .scan ∧ decodeTableWord 8 3 = some .fetch := by decide
theorem witness_SequencerFollowsTheSuccessorTable_idle : (waiting [0x10#8]).runs ∧ (waiting [0x10#8]).rst = false ∧
    ∃ t, step (waiting [0x10#8]) = .next t ∧ t.seq = .oeoff := ⟨.inl rfl, rfl, _, rfl, rfl⟩
theorem witness_SequencerFollowsTheSuccessorTable_waits : ∃ t, step (waiting [0x20#8]) = .next t ∧ t.seq = .idle := ⟨_, rfl, rfl⟩
theorem witness_SequencerFollowsTheSuccessorTable_oeoff : ∃ t, step (inScan .oeoff 0) = .next t := ⟨_, rfl⟩
theorem witness_SequencerFollowsTheSuccessorTable_rowsel : ∃ t, step (inScan .rowsel 0) = .next t := ⟨_, rfl⟩
theorem witness_SequencerFollowsTheSuccessorTable_fetch : ∃ t, step (inScan .fetch 15) = .next t := ⟨_, rfl⟩
theorem witness_SequencerFollowsTheSuccessorTable_send_loops : ∃ t, step (inScan .send 14) = .next t ∧ t.seq = .fetch := ⟨_, rfl, rfl⟩
theorem witness_SequencerFollowsTheSuccessorTable_send_ends : ∃ t, step (inScan .send 15) = .next t ∧ t.seq = .latchhi := ⟨_, rfl, rfl⟩
theorem witness_SequencerFollowsTheSuccessorTable_latchhi : ∃ t, step (inScan .latchhi 16) = .next t := ⟨_, rfl⟩
theorem witness_SequencerFollowsTheSuccessorTable_hold : ∃ t, step (inScan .hold 16) = .next t := ⟨_, rfl⟩
theorem witness_SequencerFollowsTheSuccessorTable_latchlo : ∃ t, step (inScan .latchlo 16) = .next t := ⟨_, rfl⟩
theorem witness_SequencerFollowsTheSuccessorTable_oeon : ∃ t, step (inScan .oeon 16) = .next t := ⟨_, rfl⟩
theorem witness_commands_ready : State.reset.ready = true := by decide
theorem witness_commands_failed : failedState.cmdReady = true ∧ failedState.failed = true := by decide
theorem witness_CommandsWaitUntilReady : (inScan .fetch 0).cmdReady = false ∧ (inScan .fetch 0).runs ∧
    ∃ t, step (inScan .fetch 0) = .next t := ⟨rfl, .inl rfl, _, rfl⟩
theorem witness_PortsShowTheState : State.reset.rst = false := rfl
theorem witness_NothingButResetDisturbsAScan : (inScan .send 3).seq ≠ .idle ∧ ∃ t, step (inScan .send 3) = .next t :=
  ⟨by decide, _, rfl⟩
theorem witness_IllegalWordIsRefused : (waiting [0x35#8]).runs ∧ (waiting [0x35#8]).ready = true ∧
    (waiting [0x35#8]).cmds = 0x35#8 :: [] ∧ cmdWordWf 0x35#8 = false := ⟨.inl rfl, by decide, rfl, by decide⟩
theorem witness_FailedEngineRefusesEveryWord : failedState.runs ∧ Inv failedState ∧ failedState.failed = true ∧
    failedState.cmdReady = true ∧ failedState.cmds = 0x10#8 :: [] := by
  refine ⟨.inl rfl, ?_, rfl, rfl, rfl⟩
  constructor <;> decide
theorem witness_FailedEngineRefusesEveryWord_ends : Inv { failedState with env := [.reset 1 1] } ∧
    ∃ t, step { failedState with env := [.reset 1 1] } = .next t ∧ t.failed = false := by
  refine ⟨?_, _, rfl, rfl⟩
  constructor <;> decide
theorem witness_EveryIssuedWordIsAnsweredOnce : (inScan .oeon 16).runs ∧ (inScan .oeon 16).seq = .oeon ∧
    (inScan .oeon 16).rst = false ∧ ∃ t, step (inScan .oeon 16) = .next t := ⟨.inl rfl, rfl, rfl, _, rfl⟩
theorem witness_FetchReadsTheLiveByte : (inScan .fetch 15).k < (inScan .fetch 15).streamLen ∧
    (inScan .fetch 15).fetchIndex < (inScan .fetch 15).fbLen := by decide
theorem witness_FetchReadsTheLiveByte_outside : (inScan .fetch 16).fbLen = 64 ∧
    State.fbLen { inScan .fetch 16 with k := 64 } ≤ State.fetchIndex { inScan .fetch 16 with k := 64 } := by decide
theorem witness_SendShiftsTheByteOut : (inScan .send 0).dir.sclk = .out ∧ (inScan .send 0).clockIdle = true ∧
    failedState.dir.sclk = .inward := by decide
theorem witness_PinsetSetsOneLevel : State.reset.pad .sclk = some State.reset.cfg.sclkIdle ∧
    State.reset.pad .lat = some (!State.reset.cfg.polLatActive) ∧
    ¬(Line.oe = .sclk ∧ State.reset.pad .sclk = some State.reset.cfg.sclkIdle ∧ true = !State.reset.cfg.sclkIdle) ∧
    ¬(Line.oe = .lat ∧ State.reset.pad .lat = some (!State.reset.cfg.polLatActive) ∧ true = State.reset.cfg.polLatActive) := by decide
theorem witness_PindirDrivesTheLine : Line.a ≠ .oe := by decide
theorem witness_SentByteEntersTheChain : State.reset.dir.sclk = .out ∧ State.reset.clockIdle = true ∧
    State.reset.panel.chain.length = 8 * (15 + 1) := by
  refine ⟨rfl, rfl, ?_⟩
  simp [State.reset, State.afterReset, Panel.powerOn]
theorem witness_StreamStaysInTheBuffer : 1 ≤ 1 ∧ 15 < 16 * 1 ∧ src .grouped 1 3 3 = 64 * 1 - 1 := by decide
theorem witness_StreamIsABijection : 63 < 64 * 1 ∧ 3 < 16 * 1 ∧ src .grouped 1 3 3 = 63 := by decide
theorem witness_ResetSequenceLoadsTheState_valid :
    State.env { State.reset with env := [.reset 2 1] } = .reset 2 1 :: [] ∧ 1 ≤ 2 ∧ 1 ≤ 1 := ⟨rfl, by decide⟩
theorem witness_ResetSequenceLoadsTheState_invalid :
    State.env { State.reset with env := [.reset 0 1] } = .reset 0 1 :: [] ∧ (0 = 0 ∨ 1 = 0) := ⟨rfl, .inl rfl⟩
theorem witness_valid_topology : topologyValid 1 1 = true := by decide
theorem witness_HeldResetDrivesNothing_asserted : State.env { State.reset with env := [.holdReset] } = .holdReset :: [] := rfl
theorem witness_HeldResetDrivesNothing_held : heldState.runs ∧ heldState.rst = true := ⟨.inl rfl, rfl⟩
theorem witness_HeldResetDrivesNothing_ends : State.rst { heldState with env := [.reset 1 1] } = true ∧
    ∃ t, step { heldState with env := [.reset 1 1] } = .next t ∧ t.rst = false := ⟨rfl, _, rfl, rfl⟩

theorem witness_inv : Inv (waiting [0x10#8]) := by
  constructor <;> decide
theorem witness_inv_in_scan : Inv (inScan .fetch 15) := by
  constructor <;> decide
theorem witness_panelInv : PanelInv (waiting [0x10#8]) := by
  constructor <;> simp [waiting, State.reset, State.afterReset, State.oeOn, Lines.resetLevels, Config.default, Position.selected]
theorem witness_orderInv : OrderInv (waiting [0x10#8]) :=
  ⟨fun _ => ⟨LineWatch.start, rfl, rfl, rfl, by decide, by decide, by decide⟩⟩
theorem witness_steps : ∃ t, step (waiting [0x10#8]) = .next t := ⟨_, rfl⟩
theorem witness_TracesStayRelated : (readPins State.reset.cfg State.reset.pinTrace).bits = [] ∧
    (readPins State.reset.cfg State.reset.pinTrace).events = State.reset.byteTrace ∧ ∃ t, step State.reset = .next t :=
  ⟨rfl, rfl, _, rfl⟩
theorem witness_NoLedIsLitInsideAScan : (inScan .fetch 15).seq.dark = true := rfl
theorem witness_NoLedIsLitInsideAScan_before_oeon : DarkBeforeOeon (waiting [0x20#8]) ∧ (waiting [0x20#8]).working = true ∧
    ByteEvent.oeOn ∉ (waiting [0x20#8]).byteTrace ∧ ∃ t, step (waiting [0x20#8]) = .next t :=
  ⟨fun _ _ => rfl, rfl, by decide, _, rfl⟩
theorem witness_AddressPortHoldsEveryIndex : (inScan .fetch 15).addressFits = true ∧ (inScan .fetch 15).k < (inScan .fetch 15).streamLen ∧
    1 ≤ (inScan .fetch 15).panels ∧ 64 * 1 ≤ 2 ^ 6 := by decide
theorem witness_ChainOfAnotherLengthShiftsAlong : State.reset.dir.sclk = .out ∧ State.reset.clockIdle = true ∧
    longer.panel.latched = List.replicate 16 0xFF#8 ++ lit.panel.latched ∧ lit.panel.latched.length = 16 * longer.panels ∧
    0 < longer.panels ∧ 15 < 16 := by decide

/-- A trace with one latch pulse of a topology without bytes, and its time stamps. -/
def pulse : TimedTrace := [(0, .set .a false), (0, .set .b false), (5, .set .lat true), (15, .hold), (15, .set .lat false)]

/-- A state with that trace. -/
def pulsed : State := { State.reset with panelsWide := 0, seq := .oeon, pinTrace := pulse.map Prod.snd }

theorem witness_LatchPulseLastsTheHoldTime : pulsed.working = true ∧ OrderInv pulsed ∧ pulse.map Prod.snd = pulsed.pinTrace ∧
    keepsHoldTime pulsed.cfg pulse := by
  refine ⟨rfl, ⟨fun _ => ⟨⟨false, false, true, some 0⟩, rfl, rfl, rfl, by decide, by decide, by decide⟩⟩, rfl, ?_⟩
  simp [pulse, pulsed, State.reset, State.afterReset, Config.default, keepsHoldTime]

theorem witness_OnlyNextAndSetphWriteThePhase : ∃ t, exec .next State.reset = .next t ∧ t.phase ≠ State.reset.phase :=
  ⟨_, rfl, by decide⟩
theorem witness_operations_answer : ∃ t, exec .oeon (inScan .oeon 16) = .next t := ⟨_, rfl⟩
theorem witness_DataRegistersHaveTheirWriters_sr : ∃ t, exec .fetch { inScan .fetch 0 with mem := [(48, 0x7C#8)] } = .next t ∧
    t.sr ≠ (inScan .fetch 0).sr ∧ t.fbReads ≠ (inScan .fetch 0).fbReads := ⟨_, rfl, by decide, by decide⟩
theorem witness_DataRegistersHaveTheirWriters_k_bitn : ∃ t, exec .send (inScan .send 0) = .next t ∧
    t.k ≠ (inScan .send 0).k ∧ t.bitn ≠ (inScan .send 0).bitn := ⟨_, rfl, by decide, by decide⟩
theorem witness_DataRegistersHaveTheirWriters_dir : ∃ t, exec (.pindir .oe) failedState = .next t ∧ t.dir ≠ failedState.dir :=
  ⟨_, rfl, by decide⟩
theorem witness_LinesHaveTheirDrivers_oe : ∃ t, exec .oeon (inScan .oeon 16) = .next t ∧ t.lvl.oe ≠ (inScan .oeon 16).lvl.oe :=
  ⟨_, rfl, by decide⟩
theorem witness_LinesHaveTheirDrivers_sel : ∃ t, exec .rowsel { inScan .rowsel 0 with phase := 1 } = .next t ∧
    t.sel ≠ State.sel { inScan .rowsel 0 with phase := 1 } := ⟨_, rfl, by decide⟩
theorem witness_LinesHaveTheirDrivers_sdata_sclk :
    ∃ t, exec .send { inScan .send 0 with lvl := ⟨false, false, false, true, false, false⟩ } = .next t ∧ t.lvl.sdata ≠ false ∧
      t.lvl.sclk ≠ true := ⟨_, rfl, by decide, by decide⟩
theorem witness_LinesHaveTheirDrivers_lat : ∃ t, exec .latchhi (inScan .latchhi 16) = .next t ∧
    t.lvl.lat ≠ (inScan .latchhi 16).lvl.lat := ⟨_, rfl, by decide⟩
theorem witness_OnlyTheHostChangesTheBuffer : ∃ t, step { State.reset with mem := [(0, 1#8)], env := [.write 0 2#8] } = .next t ∧
    t.byteAt 0 ≠ State.byteAt { State.reset with mem := [(0, 1#8)], env := [.write 0 2#8] } 0 := ⟨_, rfl, by decide⟩
theorem witness_HostWriteIsSeenByTheNextFetch : State.env { inScan .fetch 0 with env := [.write 48 0xFF#8] } = .write 48 0xFF#8 :: [] ∧
    48 < (inScan .fetch 0).fbLen ∧ (inScan .fetch 0).fetchIndex = 48 := ⟨rfl, by decide⟩
theorem witness_HostWriteIsSeenByTheNextFetch_outside : State.env { State.reset with env := [.write 64 0xFF#8] } = .write 64 0xFF#8 :: [] ∧
    State.reset.fbLen ≤ 64 := ⟨rfl, by decide⟩
theorem witness_ScanRunsToCompletion : (waiting [0x10#8]).ready = true ∧ (waiting [0x10#8]).env = [] ∧
    (waiting [0x10#8]).cmds = 0x10#8 :: [] ∧ (waiting [0x10#8]).panelFits := by
  refine ⟨by decide, rfl, rfl, ?_⟩
  simp [waiting, State.panelFits, State.reset, State.afterReset, Panel.powerOn, State.panels]

/-- The words of the pseudo-instruction `FRAME`. -/
def frameWords : List (BitVec 8) := [0x10#8, 0x20#8, 0x10#8, 0x20#8, 0x10#8, 0x20#8, 0x10#8, 0x20#8]

theorem witness_FrameReadsEveryByteOnce : Inv (waiting frameWords) ∧ (waiting frameWords).ready = true ∧
    (waiting frameWords).env = [] ∧ (waiting frameWords).cmds = frameWords ++ [] := by
  refine ⟨?_, by decide, rfl, rfl⟩
  constructor <;> decide
theorem witness_ScanLightsThePixelsOfItsPhase : (waiting [0x10#8]).cfg.panelOrder = (waiting [0x10#8]).cfg.streamOrder ∧
    cyclicMapping (waiting [0x10#8]).cfg = true ∧ (waiting [0x10#8]).cfg.panelLitLevel = true ∧
    (waiting [0x10#8]).onCanvas 31 15 = true := by decide
theorem witness_PixelsHaveDistinctBits : 31 < 32 * 1 ∧ 15 < 16 * 1 ∧ pixelIndex 1 1 31 15 = 59 ∧ pixelBit 1 31 15 = 0 := by decide
theorem witness_PixelIsStreamedInItsPhase : 31 < 32 * 1 ∧ 15 < 16 * 1 ∧ src .grouped 1 2 3 = pixelIndex 1 1 31 15 := by decide

/-- The host is about to set the pixel (31, 15). -/
def writing : State := { State.reset with env := State.reset.pixelWrite 31 15 true }

theorem witness_PixelWriteSetsOnePixel : writing.onCanvas 31 15 = true ∧ writing.env = writing.pixelWrite 31 15 true ++ [] ∧
    writing.onCanvas 30 15 = true ∧ ¬(30 = 31 ∧ 15 = 15) := ⟨by decide, rfl, by decide, by decide⟩
theorem witness_PixelWriteSetsOnePixel_outside : State.reset.onCanvas 32 0 = false := by decide

end Sys2Proof.Tests
end

section
/-! PROOFS. The statements about 00_scope.md: the address port (R7, R9, R25, R34). -/

namespace Sys2Proof.Machine

/-! ## A topology that fits the address port -/

/-- The address port holds every index of the stream (R34, R66). -/
theorem src_lt_two_pow_addressWidth {s : State} (hfits : s.addressFits = true) (p : BitVec 2) {k : Nat} (hk : k < s.streamLen) :
    src s.cfg.streamOrder s.panels p k < 2 ^ s.cfg.addressWidth :=
  (src_lt s.cfg.streamOrder p hk).trans_le ((addressFits_iff s).mp hfits)

/-- The port presents the index of the next `FETCH` unchanged (R34, R133). -/
theorem fbAddr_toNat {s : State} (hfits : s.addressFits = true) (hk : s.k < s.streamLen) : s.fbAddr.toNat = s.fetchIndex := by
  have hlt : s.fetchIndex < 2 ^ s.cfg.addressWidth := src_lt_two_pow_addressWidth hfits s.phase hk
  rw [State.fbAddr, BitVec.toNat_ofNat, Nat.mod_eq_of_lt hlt]

/-- One bit less than the port has is enough for `K`, `STREAM_LEN` included (R25): half the port's range still exceeds a quarter of the
buffer. -/
theorem streamLen_lt_two_pow {s : State} (hfits : s.addressFits = true) (hP : 1 ≤ s.panels) :
    s.streamLen < 2 ^ (s.cfg.addressWidth - 1) := by
  have hbuf : 64 * s.panels ≤ 2 ^ s.cfg.addressWidth := (addressFits_iff s).mp hfits
  have hAW : s.cfg.addressWidth ≠ 0 := by
    intro h0
    rw [h0, pow_zero] at hbuf
    omega
  have hhalf : 2 ^ s.cfg.addressWidth = 2 ^ (s.cfg.addressWidth - 1) * 2 := (pow_sub_one_mul hAW 2).symm
  rw [State.streamLen]
  omega

/-! ## The default width -/

/-- The widths that hold a buffer of `P` panels are those from `leastAddressWidth P` up (R9). -/
theorem leastAddressWidth_le_iff (P n : Nat) : leastAddressWidth P ≤ n ↔ 64 * P ≤ 2 ^ n :=
  Nat.clog_le_iff_le_pow Nat.one_lt_two

theorem le_two_pow_leastAddressWidth (P : Nat) : 64 * P ≤ 2 ^ leastAddressWidth P :=
  (leastAddressWidth_le_iff P _).mp le_rfl

/-- With the default width of its own number of panels every topology fits (R7, R9). -/
theorem addressFits_afterReset_defaultFor (w h : Nat) :
    (State.afterReset (Config.defaultFor (w * h)) w h).addressFits = true :=
  (addressFits_iff _).mpr (le_two_pow_leastAddressWidth (w * h))

/-- The least width for one panel is the 6 of the default configuration (R9, log 2). -/
theorem leastAddressWidth_one : leastAddressWidth 1 = 6 :=
  Nat.clog_pow 2 6 Nat.one_lt_two

theorem defaultFor_one : Config.defaultFor 1 = Config.default := by
  rw [Config.defaultFor, leastAddressWidth_one]
  rfl

/-- Settles O58: an index below `FB_LEN` is below `2^AW`, and the default `AW` is a ceiling logarithm. -/
theorem addressPortHoldsEveryIndex : Obligations.AddressPortHoldsEveryIndex := by
  refine ⟨fun s hfits => ⟨fun p _ hk => ?_, ?_, ?_⟩, fun P => ⟨rfl, ?_, fun n => ?_⟩, ?_, ?_⟩
  · exact src_lt_two_pow_addressWidth hfits p hk
  · exact fbAddr_toNat hfits
  · exact streamLen_lt_two_pow hfits
  · exact le_two_pow_leastAddressWidth P
  · exact (leastAddressWidth_le_iff P n).mpr
  · exact addressFits_afterReset_defaultFor
  · exact defaultFor_one

end Sys2Proof.Machine
end

section
/-! PROOFS. The statements about 10_state.md: who writes the registers, what is only ever appended to, what nothing reads, the ports, and the
state right after reset (R21 to R41). -/

namespace Sys2Proof.Machine

/-! ## What an operation can answer -/

/-- The next states an operation can answer, over the named operations, guards included: what `exec` may do, said once (R110 to R113,
R131 to R139, R161 to R163). -/
inductive Answer (s : State) : Instr → State → Prop
  | waits {i : Instr} (hcmd : (commandWord i).isSome) (hr : s.cmdReady = false) : Answer s i s
  | refuses {i : Instr} (hcmd : (commandWord i).isSome) (hr : s.cmdReady = true) (hf : s.failed = true) :
      Answer s i (respond .errFailed s)
  | scan (hr : s.ready = true) : Answer s .scan (goTo .oeoff s)
  | next (hr : s.ready = true) : Answer s .next (respond .ok (setPhase (s.phase + 1) s))
  | setph (n : BitVec 2) (hr : s.ready = true) : Answer s (.setph n) (respond .ok (setPhase n s))
  | oeoff : Answer s .oeoff (goTo .rowsel (emit .oeOff (pinset .oe (!s.cfg.polOeOn) s)))
  | rowsel : Answer s .rowsel (goTo .fetch (emit (.sel s.rowselCode)
      (setK 0 (pinset .b (s.rowselCode.getLsbD 1) (pinset .a (s.rowselCode.getLsbD 0) s)))))
  | fetch (hlt : s.fetchIndex < s.fbLen) :
      Answer s .fetch (goTo .send (setSr (s.byteAt s.fetchIndex) (presentIndex s.fetchIndex s)))
  | send : Answer s .send (goTo (if s.k + 1 < s.streamLen then .fetch else .latchhi)
      (setK (s.k + 1) (emit (.tx s.sr) (serbyte s.sr s))))
  | latchhi : Answer s .latchhi (goTo .hold (emit .latAssert (pinset .lat s.cfg.polLatActive s)))
  | hold : Answer s .hold (goTo .latchlo (emit .hold (emitPin .hold s)))
  | latchlo : Answer s .latchlo (goTo .oeon (emit .latDeassert (pinset .lat (!s.cfg.polLatActive) s)))
  | oeon : Answer s .oeon (respond .ok (goTo .idle (emit .oeOn (pinset .oe s.cfg.polOeOn s))))
  | pindir (l : Line) : Answer s (.pindir l) (pindir l s)
  | pinset (l : Line) (v : Level) : Answer s (.pinset l v) (pinset l v s)
  | serbyte (b : Byte) : Answer s (.serbyte b) (serbyte b s)

/-- A command waits, is refused, or is performed (R110). -/
theorem answer_of_acceptCommand {f : State → State} {i : Instr} {s t : State} (hcmd : (commandWord i).isSome)
    (hperform : s.ready = true → Answer s i (f s)) (h : acceptCommand f s = .next t) : Answer s i t := by
  rcases acceptCommand_cases h with ⟨hr, rfl⟩ | ⟨hr, hf, rfl⟩ | ⟨hr, rfl⟩
  · exact .waits hcmd hr
  · exact .refuses hcmd hr hf
  · exact hperform hr

theorem fetchIndex_lt_of_exec {s t : State} (h : exec .fetch s = .next t) : s.fetchIndex < s.fbLen := by
  by_contra hge
  rw [exec_fetch_fault (Nat.le_of_not_lt hge)] at h
  cases h

/-- Every next state `exec` answers is one of these. -/
theorem answer_of_exec {i : Instr} {s t : State} (h : exec i s = .next t) : Answer s i t := by
  cases i with
  | scan => exact answer_of_acceptCommand rfl .scan h
  | next => rw [exec_next] at h; exact answer_of_acceptCommand rfl .next h
  | setph n => rw [exec_setph] at h; exact answer_of_acceptCommand rfl (.setph n) h
  | oeoff => obtain rfl := Host.Outcome.next.inj h; exact .oeoff
  | rowsel => obtain rfl := Host.Outcome.next.inj h; exact .rowsel
  | fetch => obtain rfl := exec_fetch_cases h; exact .fetch (fetchIndex_lt_of_exec h)
  | send => obtain rfl := Host.Outcome.next.inj h; exact .send
  | latchhi => obtain rfl := Host.Outcome.next.inj h; exact .latchhi
  | hold => obtain rfl := Host.Outcome.next.inj h; exact .hold
  | latchlo => obtain rfl := Host.Outcome.next.inj h; exact .latchlo
  | oeon => obtain rfl := Host.Outcome.next.inj h; exact .oeon
  | pindir l => obtain rfl := Host.Outcome.next.inj h; exact .pindir l
  | pinset l v => obtain rfl := Host.Outcome.next.inj h; exact .pinset l v
  | serbyte b => obtain rfl := Host.Outcome.next.inj h; exact .serbyte b

/-! ## The writers of the registers -/

/-- Settles O43: every other answer leaves `PHASE` as it was. -/
theorem onlyNextAndSetphWriteThePhase : Obligations.OnlyNextAndSetphWriteThePhase := by
  intro i s t h hne
  cases answer_of_exec h with
  | next => exact .inl rfl
  | setph n => exact .inr ⟨n, rfl⟩
  | _ => exact absurd (by simp) hne

theorem writer_of_sr {i : Instr} {s t : State} (h : exec i s = .next t) (hne : t.sr ≠ s.sr) : i = .fetch := by
  cases answer_of_exec h with
  | fetch => rfl
  | _ => exact absurd (by simp) hne

theorem writer_of_k {i : Instr} {s t : State} (h : exec i s = .next t) (hne : t.k ≠ s.k) : i = .rowsel ∨ i = .send := by
  cases answer_of_exec h with
  | rowsel => exact .inl rfl
  | send => exact .inr rfl
  | _ => exact absurd (by simp) hne

theorem writer_of_bitn {i : Instr} {s t : State} (h : exec i s = .next t) (hne : t.bitn ≠ s.bitn) :
    i = .send ∨ ∃ b, i = .serbyte b := by
  cases answer_of_exec h with
  | send => exact .inl rfl
  | serbyte b => exact .inr ⟨b, rfl⟩
  | _ => exact absurd (by simp) hne

theorem writer_of_dir {i : Instr} {s t : State} (h : exec i s = .next t) (hne : t.dir ≠ s.dir) : ∃ l, i = .pindir l := by
  cases answer_of_exec h with
  | pindir l => exact ⟨l, rfl⟩
  | _ => exact absurd (by simp) hne

theorem writer_of_fbReads {i : Instr} {s t : State} (h : exec i s = .next t) (hne : t.fbReads ≠ s.fbReads) : i = .fetch := by
  cases answer_of_exec h with
  | fetch => rfl
  | _ => exact absurd (by simp) hne

/-- Settles O45: one writer lemma a register. -/
theorem dataRegistersHaveTheirWriters : Obligations.DataRegistersHaveTheirWriters :=
  fun _ _ _ h => ⟨writer_of_sr h, writer_of_k h, writer_of_bitn h, writer_of_dir h, writer_of_fbReads h⟩

/-! ## What is only ever appended to -/

/-- Settles O47: every answer's records are the old ones or the old ones with something appended. -/
theorem tracesOnlyGrow : Obligations.TracesOnlyGrow := by
  intro i s t h
  cases answer_of_exec h <;> simp

/-! ## What no operation reads -/

/-- `s` with other traces and another panel. -/
def State.withRecords (s : State) (bytes : List ByteEvent) (pins : List PinEvent) (panel : Panel) : State :=
  { s with byteTrace := bytes, pinTrace := pins, panel := panel }

/-- The two states differ in the traces and the panel at most. -/
def SameButRecords (s u : State) : Prop := ∃ bytes pins panel, u = s.withRecords bytes pins panel

/-- `SERBYTE` does the same to everything but the traces and the panel. -/
theorem serbyte_sameButRecords (b : Byte) {s u : State} (h : SameButRecords s u) :
    SameButRecords (serbyte b s) (serbyte b u) := by
  obtain ⟨bytes, pins, panel, rfl⟩ := h
  refine ⟨bytes, pins ++ serialEvents s.cfg b, (serbyte b (s.withRecords bytes pins panel)).panel, ?_⟩
  ext <;> simp [State.withRecords]

/-- A command is accepted, refused or left waiting alike, and performed alike. -/
theorem acceptCommand_sameButRecords {f : State → State} {s t u : State} (hf : SameButRecords (f s) (f u))
    (hu : SameButRecords s u) (h : acceptCommand f s = .next t) : ∃ v, acceptCommand f u = .next v ∧ SameButRecords t v := by
  obtain ⟨bytes, pins, panel, rfl⟩ := hu
  rcases acceptCommand_cases h with ⟨hr, rfl⟩ | ⟨hr, hfail, rfl⟩ | ⟨hr, rfl⟩
  · exact ⟨_, acceptCommand_held f hr, bytes, pins, panel, rfl⟩
  · exact ⟨_, acceptCommand_failed f hr hfail, bytes, pins, panel, rfl⟩
  · exact ⟨_, acceptCommand_ready f hr, hf⟩

/-- Operations keep states the same but for the traces and the panel. -/
theorem exec_sameButRecords {i : Instr} {s t u : State} (hu : SameButRecords s u) (h : exec i s = .next t) :
    ∃ v, exec i u = .next v ∧ SameButRecords t v := by
  obtain ⟨bytes, pins, panel, rfl⟩ := id hu
  cases i with
  | scan => exact acceptCommand_sameButRecords ⟨bytes, pins, panel, rfl⟩ hu h
  | next => rw [exec_next] at h; exact acceptCommand_sameButRecords ⟨bytes, pins, panel, rfl⟩ hu h
  | setph n => rw [exec_setph] at h; exact acceptCommand_sameButRecords ⟨bytes, pins, panel, rfl⟩ hu h
  | fetch =>
    obtain rfl := exec_fetch_cases h
    have hlt : s.fetchIndex < s.fbLen := fetchIndex_lt_of_exec h
    exact ⟨_, exec_fetch (s := s.withRecords bytes pins panel) hlt, bytes, pins, panel, rfl⟩
  | send =>
    obtain rfl := Host.Outcome.next.inj h
    obtain ⟨bytes', pins', panel', heq⟩ := serbyte_sameButRecords s.sr hu
    refine ⟨_, rfl, bytes' ++ [.tx s.sr], pins', panel', ?_⟩
    show goTo _ (setK _ (emit _ (serbyte s.sr (s.withRecords bytes pins panel)))) = _
    rw [heq]
    rfl
  | serbyte b =>
    obtain rfl := Host.Outcome.next.inj h
    exact ⟨_, rfl, serbyte_sameButRecords b hu⟩
  | _ =>
    obtain rfl := Host.Outcome.next.inj h
    exact ⟨_, rfl, _, _, _, rfl⟩

/-- Settles O48: a state differs from itself with other traces and another panel in these only, and `exec` keeps that. -/
theorem tracesAndPanelAreNeverRead : Obligations.TracesAndPanelAreNeverRead := by
  intro i s t bytes pins panel h
  obtain ⟨u, hu, _, _, _, rfl⟩ := exec_sameButRecords ⟨bytes, pins, panel, rfl⟩ h
  exact ⟨_, hu, rfl⟩

/-! ## Every issued word is answered once -/

theorem busy_iff (s : State) : s.busy = true ↔ s.seq ≠ .idle := by
  simp [State.busy]

theorem busy_eq_false_iff (s : State) : s.busy = false ↔ s.seq = .idle := by
  simp [State.busy]

/-- `OEON` ends the scan with its response (R139). -/
theorem oeon_answers {s t : State} (h : exec .oeon s = .next t) :
    t.responses = s.responses ++ [.ok] ∧ t.seq = .idle ∧ t.cmds = s.cmds := by
  obtain rfl := Host.Outcome.next.inj h
  simp

/-- The micro-operations before `OEON` answer nothing and leave the scan in progress. -/
theorem microOp_silent {i : Instr} {s t : State} (hm : microOp s.seq = some i) (hne : s.seq ≠ .oeon) (h : exec i s = .next t) :
    t.responses = s.responses ∧ t.seq ≠ .idle ∧ t.cmds = s.cmds := by
  cases hs : s.seq <;> rw [hs] at hm hne <;> cases hm
  case oeon => exact absurd rfl hne
  case fetch =>
    obtain rfl := exec_fetch_cases h
    simp
  case send =>
    obtain rfl := Host.Outcome.next.inj h
    refine ⟨by simp, ?_, by simp⟩
    rw [goTo_seq]
    split <;> decide
  all_goals
    obtain rfl := Host.Outcome.next.inj h
    simp

/-- Settles O16: over the engine's cases, a response and a scan in progress trade places with a waiting word or with each other. -/
theorem everyIssuedWordIsAnsweredOnce : Obligations.EveryIssuedWordIsAnsweredOnce := by
  intro s t hruns h
  rw [step_run hruns] at h
  rcases engineStep_cases h with ⟨rfl, hstop⟩ | ⟨i, hr, hm, he⟩ | ⟨w, rest, hr, hi, hc, hw⟩
  · refine ⟨by simp, .inl rfl, fun hs hr => ?_⟩
    simp [hs, hr] at hstop
  · by_cases hs : s.seq = .oeon
    · rw [taken_seq, hs] at hm
      cases hm
      obtain ⟨hresp, hidle, hcmds⟩ := oeon_answers he
      have hbusy : s.busy = true := (busy_iff s).2 (by simp [hs])
      have hfree : t.busy = false := (busy_eq_false_iff t).2 hidle
      simp [hresp, hcmds, hbusy, hfree]
    · obtain ⟨hresp, hseq, hcmds⟩ := microOp_silent hm hs he
      have hbusy : s.busy = true := (busy_iff s).2 fun hidle => by simp [hidle, microOp] at hm
      simp [hresp, hcmds, hbusy, (busy_iff t).2 hseq, hs]
  · have hfree : s.busy = false := (busy_eq_false_iff s).2 hi
    rw [taken_cmds] at hc
    rw [taken_seq] at hi
    rcases issueWord_effects (u := holdWords rest s.taken) hr hi hw with ⟨r, rfl⟩ | ⟨_, rfl | ⟨p, rfl⟩⟩
    · simp [hc, hi, hfree]
      omega
    · have hbusy : (goTo .oeoff (holdWords rest s.taken)).busy = true := (busy_iff _).2 (by simp)
      simp [hc, hi, hfree, hbusy]
      omega
    · simp [hc, hi, hfree]
      omega

/-! ## The ports -/

/-- Settles O13: each port is its register, and `cmd_ready` adds the held reset to `SEQ = IDLE`. -/
theorem portsShowTheState : Obligations.PortsShowTheState :=
  ⟨fun s => ⟨rfl, busy_iff s, fun hr => by simp [cmdReady_iff, hr]⟩, rfl, rfl, rfl⟩

/-! ## The state right after reset -/

section AfterReset

variable (c : Config) (w h : Nat)

@[simp] theorem afterReset_oeOn : (State.afterReset c w h).oeOn = false :=
  beq_false_of_ne (Bool.not_ne_self c.polOeOn)

@[simp] theorem afterReset_latAsserted : (State.afterReset c w h).latAsserted = false :=
  beq_false_of_ne (Bool.not_ne_self c.polLatActive)

@[simp] theorem afterReset_clockIdle : (State.afterReset c w h).clockIdle = true :=
  beq_self_eq_true c.sclkIdle

@[simp] theorem afterReset_sel : (State.afterReset c w h).sel = 0 := by
  show BitVec.ofBool false ++ BitVec.ofBool false = 0#2
  decide

theorem afterReset_dir_get (l : Line) : (State.afterReset c w h).dir.get l = .out := by
  cases l <;> rfl

theorem inv_afterReset (hv : topologyValid w h = true) : Inv (State.afterReset c w h) where
  memory := List.Pairwise.nil
  failed := by simp [State.afterReset, hv]
  stopped _ := rfl
  counting hs := by rcases hs with hs | hs <;> cases hs
  counted hs := by cases hs
  directions := rfl
  clock _ := afterReset_clockIdle c w h
  latch _ := afterReset_latAsserted c w h
  dark _ := afterReset_oeOn c w h
  select hs := by cases hs

theorem panelInv_afterReset : PanelInv (State.afterReset c w h) where
  shifting _ _ hs := by rcases hs with hs | hs <;> cases hs
  shifted _ _ hs := by cases hs
  shown _ _ hs := by
    rw [afterReset_oeOn] at hs
    rcases hs with hs | hs | hs | hs <;> cases hs
  code _ hs := by
    rw [afterReset_oeOn] at hs
    rcases hs with hs | hs <;> cases hs

/-- The six `DIRSET` events of the reset leave the watch at its start. -/
theorem watchPins_resetPinTrace (n : Nat) : watchPins c n resetPinTrace = some LineWatch.start := rfl

theorem orderInv_afterReset : OrderInv (State.afterReset c w h) where
  watched _ := by
    refine ⟨LineWatch.start, watchPins_resetPinTrace c _, (afterReset_oeOn c w h).symm, (afterReset_latAsserted c w h).symm,
      fun hs => ?_, fun hs => ?_, fun hs => ?_⟩
    · rcases hs with hs | hs <;> cases hs
    · cases hs
    · cases hs

end AfterReset

/-- Settles O33: the levels are those the polarities call off, deasserted and idle; the rest is read off the record. -/
theorem resetStateHasTheSpecsValues : Obligations.ResetStateHasTheSpecsValues := fun c w h _ =>
  ⟨State.afterReset c w h, rfl, rfl, rfl, rfl, rfl, rfl, afterReset_dir_get c w h, afterReset_oeOn c w h, afterReset_sel c w h,
    afterReset_clockIdle c w h, rfl, afterReset_latAsserted c w h, rfl, rfl, rfl⟩

/-- Settles O35: an idle engine with the output off and the latch deasserted meets every clause. -/
theorem invariantsHoldAtReset : Obligations.InvariantsHoldAtReset := fun c w h hv =>
  ⟨inv_afterReset c w h hv, panelInv_afterReset c w h, orderInv_afterReset c w h⟩

end Sys2Proof.Machine
end

section
/-! PROOFS. The statements about 20_memory.md: where the stream's bytes and the pixels lie in the buffer, and who changes it (R50 to R71). -/

namespace Sys2Proof.Machine

/-! ## The stream in the buffer -/

/-- The last byte of the buffer is streamed, in phase 3 (R66). -/
theorem src_last (o : StreamOrder) {P : Nat} (hP : 1 ≤ P) : ∃ k, k < 16 * P ∧ src o P 3 k = 64 * P - 1 := by
  obtain ⟨k, hk, hsrc⟩ := src_of_row_column o (P := P) (r := 15) (c := 4 * P - 1) (by decide) (by omega)
  exact ⟨k, hk, hsrc.trans (by omega)⟩

/-- Settles O29: the range is `src_lt`, and the bound is the last byte of buffer row 15. -/
theorem streamStaysInTheBuffer : Obligations.StreamStaysInTheBuffer :=
  fun o _ hP => ⟨fun p _ hk => Nat.le_sub_one_of_lt (src_lt o p hk), src_last o hP⟩

/-- The stream begins in region 3 (R90, R91, R133). -/
theorem src_zero (o : StreamOrder) (P : Nat) (p : BitVec 2) : src o P p 0 = phaseBase P p + 48 * P := by
  cases o <;> simp [src, streamRegion, streamColumn] <;> omega

/-- The stream ends with the last byte of region 0, the plain one (R90, R91, R133). -/
theorem src_end (o : StreamOrder) {P : Nat} (p : BitVec 2) (hP : 1 ≤ P) :
    src o P p (16 * P - 1) = phaseBase P p + 4 * (P - 1) + 3 := by
  have hslot : (16 * P - 1) % 16 = 15 := by omega
  have hpanel : (16 * P - 1) / 16 = P - 1 := by omega
  cases o <;> simp [src, hslot, hpanel, streamRegion, streamColumn]

/-- Settles O31: the four rows are the phase's row in the four regions. -/
theorem phaseStreamsItsBufferRows : Obligations.PhaseStreamsItsBufferRows :=
  fun o P p hP => ⟨fun k hk => ⟨streamRegion o (k % 16), streamRegion_lt o _, (src_div_row o p hk).trans (Nat.add_comm _ _)⟩,
    src_zero o P p, src_end o p hP⟩

/-! ## What no operation and no running engine writes -/

/-- Settles O44: no answer of an operation touches these. -/
theorem noOperationWritesMemoryOrConfiguration : Obligations.NoOperationWritesMemoryOrConfiguration := by
  intro i s t h
  cases answer_of_exec h <;> simp

/-- No operation changes a byte of the buffer (R61). -/
theorem exec_byteAt {i : Instr} {s t : State} (h : exec i s = .next t) (a : Nat) : t.byteAt a = s.byteAt a := by
  obtain ⟨-, hbytes, -⟩ := noOperationWritesMemoryOrConfiguration i s t h
  exact hbytes a

/-- The engine left to run changes no byte of the buffer (R61). -/
theorem engineStep_byteAt {s t : State} (h : engineStep s = .next t) (a : Nat) : t.byteAt a = s.byteAt a := by
  rcases engineStep_cases h with ⟨rfl, -⟩ | ⟨i, -, -, he⟩ | ⟨w, rest, hr, hi, -, hw⟩
  · rfl
  · exact exec_byteAt he a
  · rcases issueWord_effects (u := holdWords rest s) hr hi hw with ⟨r, rfl⟩ | ⟨-, rfl | ⟨p, rfl⟩⟩ <;> rfl

/-- A reset leaves the buffer as it was (R236). -/
theorem resetSequence_byteAt (w h : Nat) (s : State) (a : Nat) : (resetSequence w h s).byteAt a = s.byteAt a := by
  cases hv : topologyValid w h with
  | true =>
    rw [resetSequence_valid s hv, resetValid_eq]
    rfl
  | false =>
    rw [resetSequence_invalid s hv]
    rfl

/-! ## The host's writes -/

/-- A host write outside the buffer is a no-op (R66, log 11). -/
theorem hostWrite_outside {s : State} {i : Nat} (v : Byte) (h : s.fbLen ≤ i) : hostWrite i v s = s :=
  if_neg (Nat.not_lt.2 h)

/-- A byte a host write changes is the byte written, and holds the value written. -/
theorem hostWrite_changes {s : State} {i a : Nat} {v : Byte} (h : (hostWrite i v s).byteAt a ≠ s.byteAt a) :
    a = i ∧ (hostWrite i v s).byteAt a = v := by
  by_cases ha : a = i
  · subst ha
    refine ⟨rfl, byteAt_hostWrite_same s v ?_⟩
    by_contra hout
    rw [hostWrite_outside v (Nat.le_of_not_lt hout)] at h
    exact h rfl
  · exact absurd (byteAt_hostWrite_other s v ha) h

theorem step_write {s : State} {i : Nat} {v : Byte} {rest : List EnvAction} (h : s.env = .write i v :: rest) :
    step s = .next (hostWrite i v { s with env := rest }) := by
  rw [step, h]
  rfl

/-- Settles O49: of the four things a step can be, only the write and the teardown change what a byte holds. -/
theorem onlyTheHostChangesTheBuffer : Obligations.OnlyTheHostChangesTheBuffer := by
  intro s t a h hne
  rcases step_cases h with ⟨i, v, rest, henv, rfl⟩ | ⟨w, h', -, -, rfl⟩ | ⟨rest, henv, -⟩ | ⟨-, he⟩
  · obtain ⟨rfl, hv⟩ := hostWrite_changes (s := s.taken) hne
    exact .inl ⟨rest, by rw [hv, henv]⟩
  · exact absurd (resetSequence_byteAt w h' s.taken a) hne
  · exact .inr ⟨rest, henv⟩
  · exact absurd (engineStep_byteAt he a) hne

/-- `FETCH` takes what the buffer holds at its own step (R68, R144). -/
theorem exec_fetch_sr {s : State} (h : s.fetchIndex < s.fbLen) : ∃ u, exec .fetch s = .next u ∧ u.sr = s.byteAt s.fetchIndex :=
  ⟨_, exec_fetch h, rfl⟩

/-- Settles O50: the write is one record update of the buffer, which the `FETCH` after it reads. -/
theorem hostWriteIsSeenByTheNextFetch : Obligations.HostWriteIsSeenByTheNextFetch := by
  refine ⟨fun s i v rest henv hi => ?_, fun s i v rest henv hi => ?_⟩
  · have hsame : (hostWrite i v { s with env := rest }).byteAt i = v := byteAt_hostWrite_same _ v hi
    have heq := hostWrite_eq i v { s with env := rest }
    refine ⟨_, step_write henv, hsame, fun j hj => byteAt_hostWrite_other _ v hj, by rw [heq], fun hf => ?_⟩
    have hindex : (hostWrite i v { s with env := rest }).fetchIndex = i := by rw [heq]; exact hf
    have hlen : (hostWrite i v { s with env := rest }).fbLen = s.fbLen := by rw [heq]; rfl
    obtain ⟨u, hu, hsr⟩ := exec_fetch_sr (s := hostWrite i v { s with env := rest }) (by rwa [hindex, hlen])
    exact ⟨u, hu, by rw [hsr, hindex, hsame]⟩
  · rw [step_write henv, hostWrite_outside v (s := { s with env := rest }) hi]

/-! ## The row remap (R56) -/

theorem remapRow_div_four (y : Nat) : remapRow y / 4 = y / 4 := by
  unfold remapRow
  omega

theorem remapRow_mod_four (y : Nat) : remapRow y % 4 = (y + 3) % 4 := by
  unfold remapRow
  omega

theorem unmapRow_div_four (pr : Nat) : unmapRow pr / 4 = pr / 4 := by
  unfold unmapRow
  omega

theorem unmapRow_mod_four (pr : Nat) : unmapRow pr % 4 = (pr + 1) % 4 := by
  unfold unmapRow
  omega

theorem unmapRow_remapRow (y : Nat) : unmapRow (remapRow y) = y := by
  have := unmapRow_div_four (remapRow y)
  have := unmapRow_mod_four (remapRow y)
  have := remapRow_div_four y
  have := remapRow_mod_four y
  omega

theorem remapRow_unmapRow (pr : Nat) : remapRow (unmapRow pr) = pr := by
  have := remapRow_div_four (unmapRow pr)
  have := remapRow_mod_four (unmapRow pr)
  have := unmapRow_div_four pr
  have := unmapRow_mod_four pr
  omega

/-- A row stays in its panel row (R57). -/
theorem remapRow_div_sixteen (y : Nat) : remapRow y / 16 = y / 16 := by
  have := remapRow_div_four y
  omega

theorem remapRow_succ_mod_four (y : Nat) : (remapRow y + 1) % 4 = y % 4 := by
  have := remapRow_mod_four y
  omega

/-- Settles O54: both maps keep the group of four and turn the row inside it by one, in opposite directions. -/
theorem rowRemapIsABijection : Obligations.RowRemapIsABijection := fun y =>
  ⟨unmapRow_remapRow y, remapRow_unmapRow y, remapRow_div_four y, remapRow_div_sixteen y, remapRow_succ_mod_four y⟩

/-! ## A pixel's place in the buffer (R57, R58) -/

theorem bufferRow_lt (y : Nat) : bufferRow y < 16 := Nat.mod_lt _ (by decide)

theorem bufferX_div_eight (W x y : Nat) : bufferX W x y / 8 = 4 * panelOf W x y + x % 32 / 8 := by
  unfold bufferX
  omega

theorem bufferX_mod_eight (W x y : Nat) : bufferX W x y % 8 = x % 8 := by
  unfold bufferX
  omega

theorem pixelIndex_eq_row_column (W P x y : Nat) : pixelIndex W P x y = 4 * P * bufferRow y + bufferX W x y / 8 := by
  unfold pixelIndex
  ring

theorem pixelBit_lt (W x y : Nat) : pixelBit W x y < 8 := by
  unfold pixelBit
  omega

/-- The mask is the pixel's bit alone (R54). -/
theorem pixelMask_eq_twoPow (W x y : Nat) : pixelMask W x y = BitVec.twoPow 8 (pixelBit W x y) := by
  have table : ∀ n < 8, 0x80#8 >>> n = BitVec.twoPow 8 (7 - n) := by decide
  exact table _ (Nat.mod_lt _ (by decide))

section OnCanvas

variable {W H x y : Nat} (hx : x < 32 * W) (hy : y < 16 * H)
include hx

/-- The panel column and the panel row are the two digits of the panel number (R57). -/
theorem panelOf_mod : panelOf W x y % W = x / 32 := by
  rw [panelOf, Nat.add_mul_mod_self_left, Nat.mod_eq_of_lt (by omega)]

theorem panelOf_div : panelOf W x y / W = y / 16 := by
  rw [panelOf, Nat.add_mul_div_left _ _ (by omega), Nat.div_eq_of_lt (by omega), Nat.zero_add, remapRow_div_sixteen]

include hy

theorem panelOf_lt : panelOf W x y < W * H := by
  rw [Nat.mul_comm, ← Nat.div_lt_iff_lt_mul (by omega), panelOf_div hx]
  omega

/-- The byte column of a pixel is inside a buffer row. -/
theorem bufferX_div_eight_lt : bufferX W x y / 8 < 4 * (W * H) := by
  have := panelOf_lt hx hy
  rw [bufferX_div_eight]
  omega

theorem pixelIndex_div_row : pixelIndex W (W * H) x y / (4 * (W * H)) = bufferRow y := by
  have hcol := bufferX_div_eight_lt hx hy
  rw [pixelIndex_eq_row_column, Nat.mul_add_div (by omega), Nat.div_eq_of_lt hcol, Nat.add_zero]

theorem pixelIndex_mod_row : pixelIndex W (W * H) x y % (4 * (W * H)) = bufferX W x y / 8 := by
  rw [pixelIndex_eq_row_column, Nat.mul_add_mod, Nat.mod_eq_of_lt (bufferX_div_eight_lt hx hy)]

/-- A pixel's byte is streamed in the phase of its buffer row (R53). -/
theorem src_of_pixel (o : StreamOrder) :
    ∃ k, k < 16 * (W * H) ∧ src o (W * H) (BitVec.ofNat 2 (bufferRow y)) k = pixelIndex W (W * H) x y := by
  rw [pixelIndex_eq_row_column]
  exact src_of_row_column o (bufferRow_lt y) (bufferX_div_eight_lt hx hy)

theorem pixelIndex_lt : pixelIndex W (W * H) x y < 64 * (W * H) := by
  obtain ⟨k, hk, hsrc⟩ := src_of_pixel hx hy .grouped
  exact hsrc ▸ src_lt .grouped _ hk

/-- Two pixels of the canvas with one index and one bit are one pixel. -/
theorem pixel_injective {x' y' : Nat} (hx' : x' < 32 * W) (hy' : y' < 16 * H)
    (hindex : pixelIndex W (W * H) x' y' = pixelIndex W (W * H) x y) (hbit : pixelBit W x' y' = pixelBit W x y) :
    x' = x ∧ y' = y := by
  have hrow : bufferRow y' = bufferRow y := by
    rw [← pixelIndex_div_row hx' hy', hindex, pixelIndex_div_row hx hy]
  have hcol : 4 * panelOf W x' y' + x' % 32 / 8 = 4 * panelOf W x y + x % 32 / 8 := by
    rw [← bufferX_div_eight, ← pixelIndex_mod_row hx' hy', hindex, pixelIndex_mod_row hx hy, bufferX_div_eight]
  have hlow : x' % 8 = x % 8 := by
    unfold pixelBit at hbit
    rw [bufferX_mod_eight, bufferX_mod_eight] at hbit
    omega
  have hpanel : panelOf W x' y' = panelOf W x y := by omega
  have hpanelColumn : x' / 32 = x / 32 := by rw [← panelOf_mod hx', hpanel, panelOf_mod hx]
  have hpanelRow : y' / 16 = y / 16 := by rw [← panelOf_div hx', hpanel, panelOf_div hx]
  have hremap : remapRow y' = remapRow y := by
    have := remapRow_div_sixteen y'
    have := remapRow_div_sixteen y
    unfold bufferRow at hrow
    omega
  exact ⟨by omega, by rw [← unmapRow_remapRow y', hremap, unmapRow_remapRow]⟩

end OnCanvas

/-- Settles O55: index and bit give back the buffer row, the panel and the column, and these the pixel. -/
theorem pixelsHaveDistinctBits : Obligations.PixelsHaveDistinctBits := fun W _ x y hx hy =>
  ⟨pixelIndex_lt hx hy, pixelBit_lt W x y, pixelMask_eq_twoPow W x y, fun _ _ hx' hy' => pixel_injective hx hy hx' hy'⟩

/-- The phase of a pixel's buffer row is its physical row modulo 4 (R53, R58). -/
theorem phase_of_bufferRow (y : Nat) : (BitVec.ofNat 2 (bufferRow y)).toNat = remapRow y % 4 := by
  rw [BitVec.toNat_ofNat, bufferRow]
  omega

/-- Settles O56: the pixel's buffer row is streamed in its phase, and the stream visits an index once. -/
theorem pixelIsStreamedInItsPhase : Obligations.PixelIsStreamedInItsPhase := by
  intro o W H x y hx hy
  obtain ⟨k, hk, hsrc⟩ := src_of_pixel hx hy o
  refine ⟨_, k, phase_of_bufferRow y, ?_, hk, hsrc, fun q l hl hq => src_injective o hl hk (hq.trans hsrc.symm)⟩
  rw [phase_of_bufferRow, Nat.mod_add_mod, remapRow_succ_mod_four]

/-! ## The host's pixel write (R59, R62) -/

/-- A byte with the bits of a mask set or cleared: the byte of a pixel write. -/
def withMask (b mask : Byte) (lit : Level) : Byte := if lit then b ||| mask else b &&& ~~~mask

theorem withMask_twoPow_getLsbD (b : Byte) (lit : Level) {n m : Nat} (hm : m < 8) :
    (withMask b (BitVec.twoPow 8 n) lit).getLsbD m = if m = n then lit else b.getLsbD m := by
  by_cases h : m = n
  · cases lit <;> simp [withMask, h, h ▸ hm]
  · cases lit <;> simp [withMask, h, hm]

theorem onCanvas_iff (s : State) (x y : Nat) : s.onCanvas x y = true ↔ x < 32 * s.panelsWide ∧ y < 16 * s.panelsHigh := by
  simp [State.onCanvas]

theorem pixelWrite_onCanvas {s : State} {x y : Nat} (lit : Level) (h : s.onCanvas x y = true) :
    s.pixelWrite x y lit = [.write (pixelIndex s.panelsWide s.panels x y)
      (withMask (s.byteAt (pixelIndex s.panelsWide s.panels x y)) (pixelMask s.panelsWide x y) lit)] :=
  if_pos h

theorem pixelWrite_outside {s : State} {x y : Nat} (lit : Level) (h : s.onCanvas x y = false) : s.pixelWrite x y lit = [] := by
  simp [State.pixelWrite, h]

/-- The state after the host's write of one pixel. -/
def writePixel (x y : Nat) (lit : Level) (s : State) : State :=
  hostWrite (pixelIndex s.panelsWide s.panels x y)
    (withMask (s.byteAt (pixelIndex s.panelsWide s.panels x y)) (pixelMask s.panelsWide x y) lit) s

theorem step_pixelWrite {s : State} {x y : Nat} {lit : Level} {rest : List EnvAction} (h : s.onCanvas x y = true)
    (henv : s.env = s.pixelWrite x y lit ++ rest) : step s = .next (writePixel x y lit { s with env := rest }) := by
  rw [pixelWrite_onCanvas lit h] at henv
  exact step_write henv

/-- A write of one pixel keeps the topology, so a pixel stays where it is in the buffer. -/
theorem writePixel_pixelStored_eq (x y : Nat) (lit : Level) (s : State) (x' y' : Nat) :
    (writePixel x y lit s).pixelStored x' y' =
      ((writePixel x y lit s).byteAt (pixelIndex s.panelsWide s.panels x' y')).getLsbD (pixelBit s.panelsWide x' y') := by
  rw [writePixel, hostWrite_eq]
  rfl

/-- The byte of a pixel after the write of the pixel. -/
theorem writePixel_byteAt_same {s : State} {x y : Nat} (lit : Level) (h : s.onCanvas x y = true) :
    (writePixel x y lit s).byteAt (pixelIndex s.panelsWide s.panels x y) =
      withMask (s.byteAt (pixelIndex s.panelsWide s.panels x y)) (BitVec.twoPow 8 (pixelBit s.panelsWide x y)) lit := by
  obtain ⟨hx, hy⟩ := (onCanvas_iff s x y).1 h
  rw [writePixel, pixelMask_eq_twoPow]
  exact byteAt_hostWrite_same s _ (pixelIndex_lt hx hy)

/-- A pixel written reads as written (R68). -/
theorem writePixel_pixelStored_same {s : State} {x y : Nat} (lit : Level) (h : s.onCanvas x y = true) :
    (writePixel x y lit s).pixelStored x y = lit := by
  rw [writePixel_pixelStored_eq, writePixel_byteAt_same lit h, withMask_twoPow_getLsbD _ _ (pixelBit_lt _ x y), if_pos rfl]

/-- Every other pixel reads as before: it has another byte, or another bit of the same byte. -/
theorem writePixel_pixelStored_other {s : State} {x y x' y' : Nat} (lit : Level) (h : s.onCanvas x y = true)
    (h' : s.onCanvas x' y' = true) (hne : ¬(x' = x ∧ y' = y)) :
    (writePixel x y lit s).pixelStored x' y' = s.pixelStored x' y' := by
  rw [writePixel_pixelStored_eq]
  by_cases hindex : pixelIndex s.panelsWide s.panels x' y' = pixelIndex s.panelsWide s.panels x y
  · obtain ⟨hx, hy⟩ := (onCanvas_iff s x y).1 h
    obtain ⟨hx', hy'⟩ := (onCanvas_iff s x' y').1 h'
    have hbit : pixelBit s.panelsWide x' y' ≠ pixelBit s.panelsWide x y :=
      fun hbit => hne (pixel_injective hx hy hx' hy' hindex hbit)
    rw [hindex, writePixel_byteAt_same lit h, withMask_twoPow_getLsbD _ _ (pixelBit_lt _ x' y'), if_neg hbit,
      State.pixelStored, hindex]
  · rw [writePixel, byteAt_hostWrite_other s _ hindex]
    rfl

/-- Settles O57: the write is one step, and a pixel has a bit of its own. -/
theorem pixelWriteSetsOnePixel : Obligations.PixelWriteSetsOnePixel := by
  refine ⟨fun s x y lit rest h henv => ?_, fun s x y lit h => pixelWrite_outside lit h⟩
  refine ⟨writePixel x y lit { s with env := rest }, step_pixelWrite h henv, ?_,
    writePixel_pixelStored_same (s := { s with env := rest }) lit h,
    fun x' y' h' hne => writePixel_pixelStored_other (s := { s with env := rest }) lit h h' hne⟩
  rw [writePixel, hostWrite_eq]

end Sys2Proof.Machine
end

section
/-! PROOFS. The statements about 30_encoding.md: the three formats and their decoders (R81 to R87, R94, R99), what a step decodes (R100), the
pseudo-instructions (R98), and the stream as a bijection (R89). -/

namespace Sys2Proof.Machine

/-! ## Operand fields -/

/-- A command word with the legal high bits of `SETPH` is these bits over its phase field (R82, R83). -/
theorem setph_word_fields {w : BitVec 8} (h : w &&& 0xFC#8 = 0x30#8) : 0b001100#6 ++ w.extractLsb' 0 2 = w := by
  have hhigh : w.extractLsb' 2 6 = 0b001100#6 := by
    have hand := congrArg (BitVec.extractLsb' 2 6) h
    rw [BitVec.extractLsb'_and] at hand
    exact (BitVec.and_allOnes (x := w.extractLsb' 2 6)).symm.trans hand
  rw [← hhigh]
  exact (BitVec.extractLsb'_append_extractLsb'_eq_extractLsb' rfl).trans BitVec.extractLsb'_eq_self

/-- The operand fields `lllv` of `PINSET`, put together again (R94, R162). -/
theorem pinset_fields (fields : BitVec 4) : fields.extractLsb' 1 3 ++ BitVec.ofBool (fields.getLsbD 0) = fields := by
  revert fields
  decide

theorem pinset_fields_line (index : BitVec 3) (level : Level) : (index ++ BitVec.ofBool level).extractLsb' 1 3 = index :=
  BitVec.extractLsb'_append_eq_left

theorem pinset_fields_level (index : BitVec 3) (level : Level) : (index ++ BitVec.ofBool level).getLsbD 0 = level := by
  rw [BitVec.getLsbD_append]
  simp

/-! ## The decoder of a line index (R94) -/

@[simp] theorem decodeLine_index (line : Line) : decodeLine line.index = .ok line := by
  cases line <;> rfl

theorem index_of_decodeLine {index : BitVec 3} {line : Line} (h : decodeLine index = .ok line) : line.index = index := by
  unfold decodeLine at h
  split at h
  case h_7 => cases h
  all_goals
    cases h
    exact BitVec.eq_of_toNat_eq (Eq.symm ‹_›)

theorem isOk_decodeLine (index : BitVec 3) : (decodeLine index).isOk = lineIndexWf index := by
  revert index
  decide

/-! ## The decoder of a command word (R82, R84, R100) -/

theorem decodeCommand_setph (n : BitVec 2) : decodeCommand (0b001100#6 ++ n) = .ok (.setph n) := by
  revert n
  decide

theorem encode_of_decodeCommand {w : BitVec 8} {i : Instr} (h : decodeCommand w = .ok i) : encode i = .cmd w := by
  unfold decodeCommand at h
  split_ifs at h with hscan hnext hsetph <;> cases h
  · rw [hscan, encode]
  · rw [hnext, encode]
  · rw [encode, setph_word_fields hsetph]

theorem isOk_decodeCommand (w : BitVec 8) : (decodeCommand w).isOk = cmdWordWf w := by
  have hmask : w &&& 0xFF#8 = w := BitVec.and_allOnes
  unfold decodeCommand cmdWordWf
  rw [hmask]
  split_ifs with hscan hnext hsetph
  · rw [hscan]
    rfl
  · rw [hnext]
    rfl
  · simp [hsetph, Except.isOk, Except.toBool]
  · simp [hscan, hnext, hsetph, Except.isOk, Except.toBool]

/-- The command decoder has one error (R84). -/
theorem decodeCommand_error {w : BitVec 8} {e : DecodeError} (h : decodeCommand w = .error e) : e = .illegalCommand := by
  unfold decodeCommand at h
  split_ifs at h
  cases h
  rfl

/-! ## The decoder of a position code (R87) -/

theorem encode_of_decodePosition {code : BitVec 4} {i : Instr} (h : decodePosition code = .ok i) : encode i = .uop code := by
  unfold decodePosition at h
  split at h
  case h_1 => cases h
  case h_10 => cases h
  all_goals
    cases h
    exact congrArg Encoded.uop (BitVec.eq_of_toNat_eq (Eq.symm ‹_›))

theorem isOk_decodePosition (code : BitVec 4) : (decodePosition code).isOk = positionCodeWf code := by
  revert code
  decide

/-! ## Decode and encode, over the three formats -/

section Map

variable {ε α β : Type} {f : α → β} {x : Except ε α}

theorem except_map_eq_ok_iff {b : β} : x.map f = .ok b ↔ ∃ a, x = .ok a ∧ f a = b := by
  cases x <;> simp [Except.map]

theorem except_isOk_map : (x.map f).isOk = x.isOk := by
  cases x <;> rfl

end Map

/-- Decoding undoes encoding, for every operand. -/
@[simp] theorem decode_encode (i : Instr) : decode (encode i) = .ok i := by
  cases i with
  | setph n => exact decodeCommand_setph n
  | pindir line =>
    rw [encode, decode, decodeLine_index]
    rfl
  | pinset line level =>
    rw [encode, decode, pinset_fields_line, pinset_fields_level, decodeLine_index]
    rfl
  | _ => rfl

/-- A word that decodes is the encoding of its instruction. -/
theorem encode_of_decode {e : Encoded} {i : Instr} (h : decode e = .ok i) : encode i = e := by
  cases e with
  | cmd w => exact encode_of_decodeCommand h
  | uop code => exact encode_of_decodePosition h
  | pindir fields =>
    obtain ⟨line, hline, rfl⟩ := except_map_eq_ok_iff.1 h
    rw [encode, index_of_decodeLine hline]
  | pinset fields =>
    obtain ⟨line, hline, rfl⟩ := except_map_eq_ok_iff.1 h
    rw [encode, index_of_decodeLine hline, pinset_fields]
  | serbyte fields => cases h; rfl

theorem isOk_decode (e : Encoded) : (decode e).isOk = e.wf := by
  cases e with
  | cmd w => exact isOk_decodeCommand w
  | uop code => exact isOk_decodePosition code
  | pindir fields => exact except_isOk_map.trans (isOk_decodeLine _)
  | pinset fields => exact except_isOk_map.trans (isOk_decodeLine _)
  | serbyte fields => rfl

/-- The well-formed words are those that decode. -/
theorem wf_iff_decodes {e : Encoded} : e.wf = true ↔ ∃ i, decode e = .ok i := by
  rw [← isOk_decode]
  cases decode e <;> simp [Except.isOk, Except.toBool]

/-- Settles O3: decoding undoes encoding, and what decodes is well formed. -/
theorem decodeOfEncodeIsTheInstruction : Obligations.DecodeOfEncodeIsTheInstruction :=
  fun i _ => ⟨wf_iff_decodes.2 ⟨i, decode_encode i⟩, decode_encode i⟩

/-- Settles O4: a word has one instruction at most, of which it is the encoding, and has one exactly when it is well formed. -/
theorem decodedWordIsTheEncoding : Obligations.DecodedWordIsTheEncoding :=
  ⟨fun _ i h => ⟨encode_of_decode h, wf_iff_decodes.2 ⟨i, h⟩⟩, fun _ => wf_iff_decodes.1⟩

/-! ## The legal command words (R82, R84) -/

/-- Settles O1: each word is a row of its table. -/
theorem writtenOutWordsDecode : Obligations.WrittenOutWordsDecode :=
  ⟨rfl, rfl, rfl, rfl, rfl, rfl, rfl, rfl, rfl, rfl, rfl, rfl, rfl, rfl, rfl, rfl, rfl⟩

/-- The words of the three commands, one a phase for `SETPH` (R84). -/
def legalCommandWords : List (BitVec 8) := [0x10#8, 0x20#8, 0x30#8, 0x31#8, 0x32#8, 0x33#8]

theorem decode_cmd_iff {w : BitVec 8} : (∃ i, decode (.cmd w) = .ok i) ↔ w ∈ legalCommandWords := by
  constructor
  · rintro ⟨i, h⟩
    have hw : encode i = .cmd w := encode_of_decode h
    rcases decode_cmd_cases h with rfl | rfl | ⟨n, rfl⟩ <;> cases hw
    · decide
    · decide
    · revert n
      decide
  · intro h
    have hwf : ∀ v ∈ legalCommandWords, cmdWordWf v = true := by decide
    exact wf_iff_decodes.1 (hwf w h)

theorem cmdWordWf_iff {w : BitVec 8} : cmdWordWf w = true ↔ w ∈ legalCommandWords :=
  (wf_iff_decodes (e := .cmd w)).trans decode_cmd_iff

/-- Among the 256 words the well-formed ones are the six. -/
theorem wellFormed_words_perm :
    ((List.range 256).filter fun n => cmdWordWf (BitVec.ofNat 8 n)).Perm [0x10, 0x20, 0x30, 0x31, 0x32, 0x33] := by
  refine (List.perm_ext_iff_of_nodup (List.nodup_range.filter _) (by decide)).2 fun n => ?_
  rw [List.mem_filter, List.mem_range, cmdWordWf_iff]
  simp only [legalCommandWords, List.mem_cons, List.not_mem_nil, or_false, ← BitVec.toNat_inj, BitVec.toNat_ofNat]
  omega

/-- Settles O2: of the 256 words six are well formed, so 250 are not. -/
theorem legalCommandWordsAreTheSix : Obligations.LegalCommandWordsAreTheSix := by
  refine ⟨fun w => decode_cmd_iff, fun w h => ?_, ?_⟩
  · cases hd : decode (.cmd w) with
    | ok i => exact absurd hd (h i)
    | error e => rw [decodeCommand_error hd]
  · have htotal := (List.range 256).length_eq_length_filter_add fun n => cmdWordWf (BitVec.ofNat 8 n)
    rw [wellFormed_words_perm.length_eq, List.length_range] at htotal
    simp only [List.length_cons, List.length_nil] at htotal
    omega

/-! ## The stream over the four phases (R89) -/

/-- Settles O30: an index is a buffer row and a byte column, which the stream visits, and two places with one index are one. -/
theorem streamIsABijection : Obligations.StreamIsABijection := by
  intro o P i hi
  have hrow : i / (4 * P) < 16 := Nat.div_lt_of_lt_mul (by omega)
  obtain ⟨k, hk, hsrc⟩ := src_of_row_column o hrow (Nat.mod_lt i (by omega : 4 * P > 0))
  rw [Nat.div_add_mod] at hsrc
  exact ⟨_, k, hk, hsrc, fun q l hl hq => src_injective o hl hk (hq.trans hsrc.symm)⟩

/-! ## What a step decodes (R87, R100) -/

/-- The position whose code decodes to an operation selects it. -/
theorem microOp_of_decode {p : Position} {i : Instr} (h : decode (.uop p.code) = .ok i) : microOp p = some i := by
  rw [decode_position] at h
  cases hm : microOp p with
  | none => rw [hm] at h; cases h
  | some j => rw [hm] at h; cases h; rfl

theorem step_decoded_position {s : State} {i : Instr} (hruns : s.runs) (hr : s.rst = false)
    (hd : decode (.uop s.seq.code) = .ok i) : step s = exec i s.taken := by
  rw [step_run hruns]
  exact engineStep_micro hr (microOp_of_decode hd)

theorem step_decoded_command {s : State} {w : BitVec 8} {rest : List (BitVec 8)} {i : Instr} (hruns : s.runs)
    (hr : s.rst = false) (hf : s.failed = false) (hi : s.seq = .idle) (hc : s.cmds = w :: rest) (hd : decode (.cmd w) = .ok i) :
    step s = exec i (holdWords rest s.taken) := by
  rw [step_run hruns, engineStep_idle (s := s.taken) hr hi, acceptWord, taken_cmds, hc]
  exact issueWord_ok hf hd

/-- Settles O5: the engine's own dispatch, on a position and on a word. -/
theorem stepRunsTheDecodedOperation : Obligations.StepRunsTheDecodedOperation :=
  ⟨fun _ _ => step_decoded_position, fun _ _ _ _ => step_decoded_command⟩

/-! ## The placement of a table word (log 14) -/

theorem decodeTableWord_eq_some {nbits w : Nat} {i : Instr} (h : decodeTableWord nbits w = some i) :
    decode (tableWord nbits w) = .ok i := by
  unfold decodeTableWord at h
  split at h <;> cases h
  assumption

/-- A table word is a position code or a command word. -/
theorem tableWord_cases (nbits w : Nat) : (∃ code, tableWord nbits w = .uop code) ∨ ∃ word, tableWord nbits w = .cmd word := by
  simp only [tableWord]
  split
  · exact .inl ⟨_, rfl⟩
  · exact .inr ⟨_, rfl⟩

/-- A position code that decodes is the code of a position that selects an operation. -/
theorem position_of_decode {code : BitVec 4} {i : Instr} (h : decode (.uop code) = .ok i) :
    ∃ p : Position, p.code = code ∧ p ≠ .idle := by
  have hcode : encode i = .uop code := encode_of_decode h
  cases i <;> cases hcode
  exacts [⟨.oeoff, rfl, by decide⟩, ⟨.rowsel, rfl, by decide⟩, ⟨.fetch, rfl, by decide⟩, ⟨.send, rfl, by decide⟩,
    ⟨.latchhi, rfl, by decide⟩, ⟨.hold, rfl, by decide⟩, ⟨.latchlo, rfl, by decide⟩, ⟨.oeon, rfl, by decide⟩]

theorem placeTableWord_position {s : State} {nbits w : Nat} {p : Position} (hp : p ≠ .idle)
    (h : tableWord nbits w = .uop p.code) :
    placeTableWord s nbits w = { s with rst := false, env := .run :: s.env, seq := p } := by
  rw [placeTableWord, h]
  cases p with
  | idle => exact absurd rfl hp
  | _ => rfl

theorem placeTableWord_command {s : State} {nbits w : Nat} {word : BitVec 8} (h : tableWord nbits w = .cmd word) :
    placeTableWord s nbits w =
      { s with rst := false, env := .run :: s.env, seq := .idle, failed := false, cmds := word :: s.cmds } := by
  rw [placeTableWord, h]

/-- Settles O6: the placed state is one whose step runs the word decoded, a position's or a command's. -/
theorem placedTableWordRunsNext : Obligations.PlacedTableWordRunsNext := by
  intro s w i h
  have hd := decodeTableWord_eq_some h
  rcases tableWord_cases 8 w with ⟨code, hw⟩ | ⟨word, hw⟩
  · rw [hw] at hd
    obtain ⟨p, rfl, hp⟩ := position_of_decode hd
    refine .inr ⟨p, hd, ?_⟩
    rw [State.withFetchWord, placeTableWord_position hp hw]
    exact step_decoded_position (.inr ⟨s.env, rfl⟩) rfl hd
  · rw [hw] at hd
    refine .inl ?_
    rw [State.withFetchWord, placeTableWord_command hw]
    exact step_decoded_command (.inr ⟨s.env, rfl⟩) rfl rfl rfl rfl hd

/-! ## The pseudo-instructions (R98) -/

/-- `NEXT` on a ready state adds one to the phase, answers, and leaves the engine ready (R112). -/
theorem exec_next_ready {s : State} (h : s.ready = true) :
    ∃ t, exec .next s = .next t ∧ t.ready = true ∧ t = { s with phase := s.phase + 1, responses := s.responses ++ [.ok] } :=
  ⟨_, (exec_next s).trans (acceptCommand_ready _ h), h, rfl⟩

/-- Settles O14: four `NEXT`s add four to the phase, which is 0 on two bits. -/
theorem pseudoInstructionsExpand : Obligations.PseudoInstructionsExpand := by
  refine ⟨rfl, rfl, rfl, rfl, fun s hs => ?_⟩
  obtain ⟨t, ht, htr, rfl⟩ := exec_next_ready hs
  obtain ⟨u, hu, hur, rfl⟩ := exec_next_ready htr
  obtain ⟨v, hv, hvr, rfl⟩ := exec_next_ready hur
  obtain ⟨w, hw, -, rfl⟩ := exec_next_ready hvr
  refine ⟨_, _, _, _, ht, hu, hv, hw, ?_⟩
  have hphase : s.phase + 1#2 + 1#2 + 1#2 + 1#2 = s.phase := by bv_omega
  simp [hphase]

end Sys2Proof.Machine
end

section
/-! PROOFS. The statements about 40_host_commands.md: what each command does, that commands wait, a scan run to its end, and the frame law
(R110 to R116). -/

namespace Sys2Proof.Machine

/-! ## One command (R110 to R113) -/

/-- Settles O8: `SCAN` is accepted or refused as every command is. -/
theorem scanStartsTheSequence : Obligations.ScanStartsTheSequence :=
  ⟨fun _ h => acceptCommand_ready _ h, fun _ => acceptCommand_failed _⟩

/-- Settles O9: the 2-bit sum drops the carry. -/
theorem nextAdvancesThePhase : Obligations.NextAdvancesThePhase := by
  refine ⟨decode_encode .next, fun s h => ?_, fun s h hf => (exec_next s).trans (acceptCommand_failed _ h hf)⟩
  obtain ⟨t, ht, -, rfl⟩ := exec_next_ready h
  exact ⟨_, ht, BitVec.toNat_add s.phase 1, rfl⟩

/-- The command word of `SETPH n` as R82 counts it. -/
theorem setph_word (n : BitVec 2) : BitVec.ofNat 8 (0x30 + n.toNat) = 0b001100#6 ++ n := by
  revert n
  decide

/-- Settles O10: the word carries the phase in its two low bits. -/
theorem setphSetsThePhase : Obligations.SetphSetsThePhase := by
  refine ⟨fun n => ?_, fun s n h => ?_, fun s n h hf => ?_⟩
  · rw [setph_word]
    exact decode_encode (.setph n)
  · exact (exec_setph n s).trans (acceptCommand_ready _ h)
  · exact (exec_setph n s).trans (acceptCommand_failed _ h hf)

/-! ## Waiting (R110, R31) -/

/-- No operation takes a word off the command port. -/
theorem exec_cmds {i : Instr} {s t : State} (h : exec i s = .next t) : t.cmds = s.cmds := by
  obtain ⟨-, -, -, -, -, -, -, hcmds, -⟩ := noOperationWritesMemoryOrConfiguration i s t h
  exact hcmds

/-- Settles O11: only an idle engine whose reset is released takes a word. -/
theorem commandsWaitUntilReady : Obligations.CommandsWaitUntilReady := by
  refine ⟨fun s h => ⟨?_, ?_, fun n => ?_⟩, fun s t hruns hr h => ?_⟩
  · exact (exec_scan s).trans (acceptCommand_held _ h)
  · exact (exec_next s).trans (acceptCommand_held _ h)
  · exact (exec_setph n s).trans (acceptCommand_held _ h)
  · rw [step_run hruns] at h
    rcases engineStep_cases h with ⟨rfl, -⟩ | ⟨i, -, -, he⟩ | ⟨w, rest, hrst, hidle, -, -⟩
    · rfl
    · exact (exec_cmds he).trans (taken_cmds s)
    · have hready : s.cmdReady = true := (cmdReady_iff s).2 ⟨hidle, hrst⟩
      rw [hr] at hready
      cases hready

/-- The idle engine left alone runs the command at the port, taken off it. -/
theorem step_command {s : State} {w : BitVec 8} {rest : List (BitVec 8)} {i : Instr} (hready : s.ready = true) (henv : s.env = [])
    (hc : s.cmds = w :: rest) (hd : decode (.cmd w) = .ok i) : step s = exec i (holdWords rest s) := by
  obtain ⟨hidle, hrst, hf⟩ := (ready_iff s).1 hready
  rw [step_issue henv hrst hidle hc, issueWord_ok (s := holdWords rest s) hf hd]

theorem step_scan {s : State} {rest : List (BitVec 8)} (hready : s.ready = true) (henv : s.env = [])
    (hc : s.cmds = 0x10#8 :: rest) : step s = .next (goTo .oeoff (holdWords rest s)) :=
  (step_command hready henv hc rfl).trans (acceptCommand_ready (s := holdWords rest s) _ hready)

theorem step_next {s : State} {rest : List (BitVec 8)} (hready : s.ready = true) (henv : s.env = [])
    (hc : s.cmds = 0x20#8 :: rest) : step s = .next (respond .ok (setPhase (s.phase + 1) (holdWords rest s))) :=
  (step_command hready henv hc rfl).trans ((exec_next _).trans (acceptCommand_ready (s := holdWords rest s) _ hready))

/-! ## One scan, run to its end (R140 to R142) -/

/-- What `t` is after an undisturbed scan from `s`, which leaves the words `rest` at the port. -/
structure ScanDone (s t : State) (rest : List (BitVec 8)) : Prop where
  seq : t.seq = .idle
  rst : t.rst = false
  env : t.env = []
  cmds : t.cmds = rest
  cfg : t.cfg = s.cfg
  panelsWide : t.panelsWide = s.panelsWide
  panelsHigh : t.panelsHigh = s.panelsHigh
  phase : t.phase = s.phase
  failed : t.failed = s.failed
  dir : t.dir = s.dir
  mem : t.mem = s.mem
  byteAt : ∀ i, t.byteAt i = s.byteAt i
  k : t.k = s.streamLen
  sr : s.scanBytes.getLast? = some t.sr
  sdata : t.lvl.sdata = t.sr.getLsbD 0
  oeOn : t.oeOn = true
  latAsserted : t.latAsserted = false
  clockIdle : t.clockIdle = true
  sel : t.sel = s.rowselCode
  responses : t.responses = s.responses ++ [.ok]
  fbReads : t.fbReads = s.fbReads ++ s.scanIndices
  byteTrace : t.byteTrace = s.byteTrace ++ scanEvents s.rowselCode s.scanBytes
  pinTrace : t.pinTrace = s.pinTrace ++ scanPinEvents s.cfg s.rowselCode s.scanBytes
  panel : s.panelFits → t.panelFits ∧ t.panel.latched = s.scanBytes

/-- The loop run to its end and the four micro-operations after it (R142). -/
theorem scanDone_of_loop {s u : State} {rest : List (BitVec 8)} (h : LoopState (goTo .oeoff (holdWords rest s)) u s.streamLen)
    (hdir : s.dir = Lines.all .out) (hlen : 0 < s.streamLen) :
    ∃ t : State, Sys2Proof.core.run 4 u = .next t ∧ ScanDone s t rest := by
  refine ⟨_, loop_end h, ?_⟩
  have hbytes : (goTo .oeoff (holdWords rest s)).scanBytes.take s.streamLen = s.scanBytes :=
    List.take_of_length_le (scanBytes_length s).le
  have hindices : (goTo .oeoff (holdWords rest s)).scanIndices.take s.streamLen = s.scanIndices :=
    List.take_of_length_le (scanIndices_length s).le
  obtain ⟨hsr, hsdata⟩ := h.sr hlen
  have hreads := h.fbReads
  have htx := h.byteTrace
  have hpins := h.pinTrace
  have hchain := h.chain
  rw [hindices] at hreads
  rw [hbytes] at htx hpins hsr hchain
  constructor
  case sr => exact hsr
  case sdata => exact hsdata
  case byteAt => simp [State.byteAt, h.mem, h.memEra]
  case k => exact h.k
  case sel => exact h.sel
  case oeOn => simp [State.oeOn, h.cfg]
  case latAsserted => simp [State.latAsserted, h.cfg]
  case clockIdle => simp [State.clockIdle, h.cfg, h.sclk]
  case fbReads => simp [hreads]
  case byteTrace => simp [htx, scanEvents]
  case pinTrace => simp [hpins, scanPinEvents]
  case panel =>
    intro hfits
    obtain ⟨hfits', hrx⟩ := hchain hfits
    exact ⟨hfits', by simpa using hrx⟩
  all_goals simp [h.rst, h.env, h.cfg, h.panelsWide, h.panelsHigh, h.phase, h.failed, h.mem, h.dir, h.cmds, h.responses, hdir]

/-- An undisturbed scan runs to its end: the issue, the way into the loop, the loop, the way out of it (R140). -/
theorem scan_runs {s : State} {rest : List (BitVec 8)} (h : Inv s) (hready : s.ready = true) (henv : s.env = [])
    (hc : s.cmds = 0x10#8 :: rest) : ∃ t : State, Sys2Proof.core.run s.scanSteps s = .next t ∧ ScanDone s t rest := by
  obtain ⟨hidle, hrst, hf⟩ := (ready_iff s).1 hready
  have hw : s.working = true := (working_iff s).2 ⟨hf, hrst⟩
  have hdir := dir_of_working h hw
  have hlen := streamLen_pos h hf
  have hlat : s.latAsserted = false := by rw [h.latch hw, hidle]; rfl
  obtain ⟨u, hu, hstart⟩ := loop_start (s := goTo .oeoff (holdWords rest s)) rfl henv hrst hdir hlen hlat (h.clock hw)
  obtain ⟨v, hv, hloop⟩ := loop_all hstart le_rfl
  obtain ⟨t, ht, hdone⟩ := scanDone_of_loop hloop hdir hlen
  refine ⟨t, ?_, hdone⟩
  rw [State.scanSteps, show 1 + (6 + 2 * s.streamLen) = 2 + (2 * s.streamLen + 4) + 1 by ring,
    run_succ _ (step_scan hready henv hc), run_add _ hu]
  exact (run_add _ hv).trans ht

/-- A scan is `24` events a byte and `7` around them, one of them the hold (R168, R170). -/
theorem scanPinEvents_length (c : Config) (code : BitVec 2) (bytes : List Byte) :
    (scanPinEvents c code bytes).length = 24 * bytes.length + 7 := by
  have hbyte : ∀ b, (serialEvents c b).length = 24 := fun b => by simp [serialEvents, byteBits_eq]
  simp [scanPinEvents, List.length_flatMap, hbyte]
  ring

/-- Settles O51: the scan's run, and what it leaves read off one by one. -/
theorem scanRunsToCompletion : Obligations.ScanRunsToCompletion := by
  intro s rest h hready henv hc
  obtain ⟨t, hrun, hdone⟩ := scan_runs h hready henv hc
  have hlength : t.pinTrace.length = s.pinTrace.length + (384 * s.panels + 6) + 1 := by
    rw [hdone.pinTrace, List.length_append, scanPinEvents_length, scanBytes_length, State.streamLen]
    ring
  exact ⟨t, hrun, hdone.byteTrace, hdone.pinTrace, hlength, hdone.fbReads, hdone.responses, hdone.cmds, hdone.phase, hdone.failed,
    hdone.dir, hdone.mem, hdone.byteAt, hdone.panelsWide, hdone.panelsHigh, hdone.cfg, hdone.env, hdone.rst, hdone.seq, hdone.oeOn,
    hdone.latAsserted, hdone.clockIdle, hdone.sel, hdone.k, hdone.sr, hdone.sdata, hdone.panel⟩

/-! ## The frame law (R116) -/

/-- An idle engine that has kept the buffer, the topology and the directions, with the clock idle and the latch deasserted, keeps the
invariant. -/
theorem ScanDone.inv {s t : State} {rest : List (BitVec 8)} (h : ScanDone s t rest) (hs : Inv s) (hrst : s.rst = false) : Inv t where
  memory := h.mem ▸ hs.memory
  failed := by rw [h.failed, h.panelsWide, h.panelsHigh, hs.failed]
  stopped _ := h.seq
  counting hseq := by simp [h.seq] at hseq
  counted hseq := by simp [h.seq, Position.sent] at hseq
  directions := by rw [h.dir, hs.directions, State.working, State.working, h.failed, h.rst, hrst]
  clock _ := h.clockIdle
  latch _ := by rw [h.latAsserted, h.seq]; rfl
  dark hseq := by simp [h.seq, Position.dark] at hseq
  select hseq := by simp [h.seq, Position.selected] at hseq

theorem ScanDone.ready {s t : State} {rest : List (BitVec 8)} (h : ScanDone s t rest) (hs : s.ready = true) : t.ready = true := by
  obtain ⟨-, -, hf⟩ := (ready_iff s).1 hs
  exact (ready_iff t).2 ⟨h.seq, h.rst, h.failed.trans hf⟩

/-- Another phase and another response leave an idle engine's invariant alone. -/
theorem inv_nextPhase {s : State} (h : Inv s) (hidle : s.seq = .idle) (p : BitVec 2) (rest : List (BitVec 8)) :
    Inv (respond .ok (setPhase p (holdWords rest s))) where
  memory := h.memory
  failed := h.failed
  stopped := h.stopped
  counting := h.counting
  counted := h.counted
  directions := h.directions
  clock := h.clock
  latch := h.latch
  dark := h.dark
  select hseq := by simp [hidle, Position.selected] at hseq

/-- `t` after the scans of the phases `ps` from `s`, each with the `NEXT` after it. -/
structure PhasesScanned (s t : State) (ps : List (BitVec 2)) : Prop where
  inv : Inv t
  ready : t.ready = true
  env : t.env = []
  cfg : t.cfg = s.cfg
  panelsWide : t.panelsWide = s.panelsWide
  panelsHigh : t.panelsHigh = s.panelsHigh
  byteAt : ∀ i, t.byteAt i = s.byteAt i
  fbReads : t.fbReads = s.fbReads ++ ps.flatMap fun p => (s.atPhase p).scanIndices
  byteTrace : t.byteTrace = s.byteTrace ++ ps.flatMap fun p => scanEvents (s.atPhase p).rowselCode (s.atPhase p).scanBytes
  responses : t.responses = s.responses ++ List.replicate (2 * ps.length) .ok

theorem phasesScanned_nil {s : State} (h : Inv s) (hready : s.ready = true) (henv : s.env = []) : PhasesScanned s s [] where
  inv := h
  ready := hready
  env := henv
  cfg := rfl
  panelsWide := rfl
  panelsHigh := rfl
  byteAt _ := rfl
  fbReads := by simp
  byteTrace := by simp
  responses := by simp

section Stream

variable {s u : State} {ps : List (BitVec 2)} (h : PhasesScanned s u ps)
include h

/-! The next scan reads and sends what the first state has at that phase: the buffer and the topology are the same. -/

theorem PhasesScanned.panels : u.panels = s.panels := by rw [State.panels, h.panelsWide, h.panelsHigh, State.panels]

theorem PhasesScanned.streamLen : u.streamLen = s.streamLen := by rw [State.streamLen, h.panels, State.streamLen]

theorem PhasesScanned.rowselCode : u.rowselCode = (s.atPhase u.phase).rowselCode := by
  rw [State.rowselCode, h.cfg]
  rfl

theorem PhasesScanned.scanIndices : u.scanIndices = (s.atPhase u.phase).scanIndices := by
  rw [State.scanIndices, h.cfg, h.panels, h.streamLen]
  rfl

theorem PhasesScanned.scanBytes : u.scanBytes = (s.atPhase u.phase).scanBytes := by
  simp only [State.scanBytes, h.cfg, h.panels, h.streamLen, h.byteAt]
  rfl

/-- One more phase: a `SCAN` and a `NEXT`. -/
theorem PhasesScanned.scan_next {rest : List (BitVec 8)} (hc : u.cmds = 0x10#8 :: 0x20#8 :: rest) :
    ∃ v : State, Sys2Proof.core.run (s.scanSteps + 1) u = .next v ∧ PhasesScanned s v (ps ++ [u.phase]) ∧ v.phase = u.phase + 1 ∧
      v.cmds = rest := by
  obtain ⟨-, hrst, -⟩ := (ready_iff u).1 h.ready
  obtain ⟨t, hrun, hdone⟩ := scan_runs h.inv h.ready h.env hc
  have hready := hdone.ready h.ready
  have hsteps : s.scanSteps = u.scanSteps := by rw [State.scanSteps, State.scanSteps, h.streamLen]
  refine ⟨respond .ok (setPhase (t.phase + 1) (holdWords rest t)), ?_, ?_, by simp [hdone.phase], by simp⟩
  · rw [hsteps, run_add _ hrun, run_succ _ (step_next hready hdone.env hdone.cmds), run_zero]
  · constructor
    case inv => exact inv_nextPhase (hdone.inv h.inv hrst) hdone.seq _ _
    case ready => exact hready
    case byteAt => exact fun i => (hdone.byteAt i).trans (h.byteAt i)
    case fbReads => simp [hdone.fbReads, h.fbReads, h.scanIndices]
    case byteTrace => simp [hdone.byteTrace, h.byteTrace, h.rowselCode, h.scanBytes]
    case responses => simp [hdone.responses, h.responses, Nat.mul_add, List.replicate_add]
    all_goals simp [hdone.env, hdone.cfg, h.cfg, hdone.panelsWide, h.panelsWide, hdone.panelsHigh, h.panelsHigh]

end Stream

/-- The four phases, from any of them on. -/
def phasesFrom (p : BitVec 2) : List (BitVec 2) := [p, p + 1, p + 2, p + 3]

theorem mem_phasesFrom (p q : BitVec 2) : q ∈ phasesFrom p := by
  revert p q
  decide

theorem nodup_phasesFrom (p : BitVec 2) : (phasesFrom p).Nodup := by
  revert p
  decide

/-- The four phases read every byte of the buffer once (R89). -/
theorem scanIndices_perm (s : State) (p : BitVec 2) :
    ((phasesFrom p).flatMap fun q => (s.atPhase q).scanIndices).Perm (List.range s.fbLen) := by
  have hmem : ∀ (q : BitVec 2) (i : Nat),
      i ∈ (s.atPhase q).scanIndices ↔ ∃ k, k < s.streamLen ∧ src s.cfg.streamOrder s.panels q k = i := fun q i => by
    simp [State.scanIndices, State.atPhase, State.streamLen, State.panels]
  have hnodup : ((phasesFrom p).flatMap fun q => (s.atPhase q).scanIndices).Nodup := by
    refine List.nodup_flatMap.2 ⟨fun q _ => ?_, (nodup_phasesFrom p).imp fun {q r} hne i hq hr => ?_⟩
    · refine List.Nodup.map_on (fun k hk l hl heq => ?_) List.nodup_range
      exact (src_injective s.cfg.streamOrder (List.mem_range.1 hk) (List.mem_range.1 hl) heq).2
    · obtain ⟨k, hk, hki⟩ := (hmem q i).1 hq
      obtain ⟨l, hl, hli⟩ := (hmem r i).1 hr
      exact hne (src_injective s.cfg.streamOrder hk hl (hki.trans hli.symm)).1
  refine (List.perm_ext_iff_of_nodup hnodup List.nodup_range).2 fun i => ?_
  rw [List.mem_flatMap, List.mem_range]
  constructor
  · rintro ⟨q, -, hq⟩
    obtain ⟨k, hk, rfl⟩ := (hmem q i).1 hq
    exact src_lt s.cfg.streamOrder q hk
  · intro hi
    obtain ⟨q, k, hk, hsrc, -⟩ := streamIsABijection s.cfg.streamOrder s.panels i hi
    exact ⟨q, mem_phasesFrom p q, (hmem q i).2 ⟨k, hk, hsrc⟩⟩

theorem scanEvents_countP_isTx (code : BitVec 2) (bytes : List Byte) : (scanEvents code bytes).countP ByteEvent.isTx = bytes.length := by
  simp [scanEvents, List.countP_map, ByteEvent.isTx, Function.comp_def]

/-- Settles O52: four rounds of `SCAN; NEXT`, after which the 2-bit phase is back. -/
theorem frameReadsEveryByteOnce : Obligations.FrameReadsEveryByteOnce := by
  intro s rest h hready henv hc
  obtain ⟨t₁, hrun₁, h₁, hp₁, hc₁⟩ := (phasesScanned_nil h hready henv).scan_next hc
  obtain ⟨t₂, hrun₂, h₂, hp₂, hc₂⟩ := h₁.scan_next hc₁
  obtain ⟨t₃, hrun₃, h₃, hp₃, hc₃⟩ := h₂.scan_next hc₂
  obtain ⟨t, hrun₄, h₄, hp₄, hc₄⟩ := h₃.scan_next hc₃
  have hp₂' : t₂.phase = s.phase + 2 := by rw [hp₂, hp₁]; bv_omega
  have hp₃' : t₃.phase = s.phase + 3 := by rw [hp₃, hp₂']; bv_omega
  have hp : t.phase = s.phase := by rw [hp₄, hp₃']; bv_omega
  have hscanned : PhasesScanned s t (phasesFrom s.phase) := by simpa [phasesFrom, hp₁, hp₂', hp₃'] using h₄
  obtain ⟨hidle, -, -⟩ := (ready_iff t).1 hscanned.ready
  refine ⟨t, ?_, hp, hidle, hc₄, ⟨_, hscanned.fbReads, scanIndices_perm s s.phase⟩, ⟨_, hscanned.byteTrace, ?_, rfl⟩,
    hscanned.responses⟩
  · rw [show 4 * (s.scanSteps + 1) = (s.scanSteps + 1) + ((s.scanSteps + 1) + ((s.scanSteps + 1) + (s.scanSteps + 1))) by ring,
      run_add _ hrun₁, run_add _ hrun₂, run_add _ hrun₃, hrun₄]
  · have hbytes : ∀ p, (s.atPhase p).scanBytes.length = 16 * s.panels := fun p => scanBytes_length (s.atPhase p)
    simp only [List.countP_flatMap, Function.comp_def, scanEvents_countP_isTx, hbytes, phasesFrom, List.map_cons, List.map_nil,
      List.sum_cons, List.sum_nil, State.fbLen]
    ring

end Sys2Proof.Machine
end

section
/-! PROOFS. The statements about 41_scan_sequence.md: the micro-operations one by one, the successor table, and what every step keeps (R130 to
R145). -/

namespace Sys2Proof.Machine

/-! ## The views of the lines after `PINSET` and `SERBYTE`

`PINSET` is seen by the view of its own line and by no other view (R30). -/

@[simp] theorem pinset_oe_oeOn (v : Level) (s : State) : (pinset .oe v s).oeOn = (v == s.cfg.polOeOn) := rfl
@[simp] theorem pinset_oe_latAsserted (v : Level) (s : State) : (pinset .oe v s).latAsserted = s.latAsserted := rfl
@[simp] theorem pinset_oe_clockIdle (v : Level) (s : State) : (pinset .oe v s).clockIdle = s.clockIdle := rfl
@[simp] theorem pinset_oe_sel (v : Level) (s : State) : (pinset .oe v s).sel = s.sel := rfl
@[simp] theorem pinset_a_oeOn (v : Level) (s : State) : (pinset .a v s).oeOn = s.oeOn := rfl
@[simp] theorem pinset_a_latAsserted (v : Level) (s : State) : (pinset .a v s).latAsserted = s.latAsserted := rfl
@[simp] theorem pinset_a_clockIdle (v : Level) (s : State) : (pinset .a v s).clockIdle = s.clockIdle := rfl
@[simp] theorem pinset_b_oeOn (v : Level) (s : State) : (pinset .b v s).oeOn = s.oeOn := rfl
@[simp] theorem pinset_b_latAsserted (v : Level) (s : State) : (pinset .b v s).latAsserted = s.latAsserted := rfl
@[simp] theorem pinset_b_clockIdle (v : Level) (s : State) : (pinset .b v s).clockIdle = s.clockIdle := rfl
@[simp] theorem pinset_lat_oeOn (v : Level) (s : State) : (pinset .lat v s).oeOn = s.oeOn := rfl
@[simp] theorem pinset_lat_latAsserted (v : Level) (s : State) : (pinset .lat v s).latAsserted = (v == s.cfg.polLatActive) := rfl
@[simp] theorem pinset_lat_clockIdle (v : Level) (s : State) : (pinset .lat v s).clockIdle = s.clockIdle := rfl
@[simp] theorem pinset_lat_sel (v : Level) (s : State) : (pinset .lat v s).sel = s.sel := rfl
@[simp] theorem serbyte_oeOn (b : Byte) (s : State) : (serbyte b s).oeOn = s.oeOn := by simp [State.oeOn]
@[simp] theorem serbyte_latAsserted (b : Byte) (s : State) : (serbyte b s).latAsserted = s.latAsserted := by simp [State.latAsserted]
@[simp] theorem serbyte_clockIdle (b : Byte) (s : State) : (serbyte b s).clockIdle = true := by simp [State.clockIdle]
@[simp] theorem serbyte_sel (b : Byte) (s : State) : (serbyte b s).sel = s.sel := by simp [State.sel]

/-- The two row-select lines set, A first, make the code (R132). -/
@[simp] theorem pinset_b_a_sel (code : BitVec 2) (s : State) :
    (pinset .b code[1] (pinset .a code[0] s)).sel = code :=
  code_bits code

/-! ## What a reset leaves of the engine (R231, R233) -/

theorem resetSequence_seq (w height : Nat) (s : State) : (resetSequence w height s).seq = .idle := by
  cases hv : topologyValid w height with
  | true => rw [resetSequence_valid s hv, resetValid_eq]; rfl
  | false => rw [resetSequence_invalid s hv]; rfl

/-- A reset that leaves a working engine leaves its output off (R41, R231). -/
theorem resetSequence_oeOn {w height : Nat} {s : State} (hw : (resetSequence w height s).working = true) :
    (resetSequence w height s).oeOn = false := by
  cases hv : topologyValid w height with
  | true =>
    rw [resetSequence_valid s hv, resetValid_eq]
    simp [State.oeOn, Lines.resetLevels]
  | false =>
    rw [resetSequence_invalid s hv] at hw
    cases hw

theorem teardown_working (s : State) : (teardown s).working = false := by
  simp [State.working, teardown]

/-! ## The micro-operation of a position

What an engine with a scan in progress can do in one step, said once: each proof about the scan is a case analysis of this. -/

/-- The next state a micro-operation answers in its own position (R131 to R139). -/
inductive MicroStep (s : State) : State → Prop
  | oeoff (hseq : s.seq = .oeoff) : MicroStep s (goTo .rowsel (emit .oeOff (pinset .oe (!s.cfg.polOeOn) s)))
  | rowsel (hseq : s.seq = .rowsel) : MicroStep s (goTo .fetch (emit (.sel s.rowselCode)
      (setK 0 (pinset .b (s.rowselCode.getLsbD 1) (pinset .a (s.rowselCode.getLsbD 0) s)))))
  | fetch (hseq : s.seq = .fetch) : MicroStep s (goTo .send (setSr (s.byteAt s.fetchIndex) (presentIndex s.fetchIndex s)))
  | send (hseq : s.seq = .send) : MicroStep s (goTo (if s.k + 1 < s.streamLen then .fetch else .latchhi)
      (setK (s.k + 1) (emit (.tx s.sr) (serbyte s.sr s))))
  | latchhi (hseq : s.seq = .latchhi) : MicroStep s (goTo .hold (emit .latAssert (pinset .lat s.cfg.polLatActive s)))
  | hold (hseq : s.seq = .hold) : MicroStep s (goTo .latchlo (emit .hold (emitPin .hold s)))
  | latchlo (hseq : s.seq = .latchlo) : MicroStep s (goTo .oeon (emit .latDeassert (pinset .lat (!s.cfg.polLatActive) s)))
  | oeon (hseq : s.seq = .oeon) : MicroStep s (respond .ok (goTo .idle (emit .oeOn (pinset .oe s.cfg.polOeOn s))))

theorem microStep_of_exec {i : Instr} {s t : State} (hm : microOp s.seq = some i) (h : exec i s = .next t) : MicroStep s t := by
  cases hs : s.seq <;> rw [hs] at hm <;> cases hm
  case fetch => obtain rfl := exec_fetch_cases h; exact .fetch hs
  all_goals obtain rfl := Host.Outcome.next.inj h
  case oeoff => exact .oeoff hs
  case rowsel => exact .rowsel hs
  case send => exact .send hs
  case latchhi => exact .latchhi hs
  case hold => exact .hold hs
  case latchlo => exact .latchlo hs
  case oeon => exact .oeon hs

/-- What no micro-operation writes (R140, R145). -/
structure ScanFrame (s t : State) : Prop where
  cfg : t.cfg = s.cfg
  panelsWide : t.panelsWide = s.panelsWide
  panelsHigh : t.panelsHigh = s.panelsHigh
  phase : t.phase = s.phase
  failed : t.failed = s.failed
  rst : t.rst = s.rst
  dir : t.dir = s.dir
  mem : t.mem = s.mem
  cmds : t.cmds = s.cmds

namespace MicroStep

variable {s t : State} (h : MicroStep s t)
include h

theorem frame : ScanFrame s t := by
  cases h <;> constructor <;> simp

theorem working : t.working = s.working := by
  simp [State.working, h.frame.failed, h.frame.rst]

theorem busy : s.seq ≠ .idle := by
  cases h <;> simp [*]

/-! ### The clauses of the invariant, kept by a micro-operation -/

/-- `SEND` stays in the loop while the new count is below `STREAM_LEN` (R134, R135). -/
theorem keeps_counting (hlen : 0 < s.streamLen) (hcount : s.seq = .fetch ∨ s.seq = .send → s.k < s.streamLen) :
    t.seq = .fetch ∨ t.seq = .send → t.k < t.streamLen := by
  cases h with
  | rowsel => simpa using hlen
  | fetch hseq => simpa using hcount (.inl hseq)
  | send => by_cases hmore : s.k + 1 < s.streamLen <;> simp [hmore]
  | _ => simp

/-- The last `SEND` leaves the count at `STREAM_LEN`, and nothing after it counts (R134). -/
theorem keeps_counted (hcount : s.seq = .fetch ∨ s.seq = .send → s.k < s.streamLen)
    (hcounted : s.seq.sent = true → s.k = s.streamLen) : t.seq.sent = true → t.k = t.streamLen := by
  cases h with
  | send hseq =>
    have hlt := hcount (.inr hseq)
    by_cases hmore : s.k + 1 < s.streamLen
    · simp [hmore, Position.sent]
    · have hlast : s.k + 1 = s.streamLen := by omega
      simp [hlast]
  | latchhi hseq | hold hseq | latchlo hseq => simpa using fun _ => hcounted (by rw [hseq]; rfl)
  | _ => simp [Position.sent]

/-- `SERBYTE` leaves the clock idle, no other operation of a scan drives it (R143c, R169). -/
theorem keeps_clock (hclock : s.clockIdle = true) : t.clockIdle = true := by
  cases h <;> simp [hclock]

/-- `LATCHHI` asserts the latch, `LATCHLO` deasserts it, and the positions between them are the latching ones (R143b). -/
theorem keeps_latch (hlatch : s.latAsserted = s.seq.latching) : t.latAsserted = t.seq.latching := by
  cases h with
  | send hseq => by_cases hmore : s.k + 1 < s.streamLen <;> simp [hmore, hlatch, hseq, Position.latching]
  | oeoff hseq | rowsel hseq | fetch hseq | latchhi hseq | hold hseq | latchlo hseq | oeon hseq =>
    simp [hlatch, hseq, Position.latching]

/-- The output, off after `OEOFF`, is not touched before `OEON` (R143a). -/
theorem keeps_dark (hdark : s.seq.dark = true → s.oeOn = false) : t.seq.dark = true → t.oeOn = false := by
  cases h with
  | oeoff => simp
  | oeon => simp [Position.dark]
  | rowsel hseq | fetch hseq | send hseq | latchhi hseq | hold hseq | latchlo hseq =>
    simpa using fun _ => hdark (by rw [hseq]; rfl)

/-- The lines carry the phase's code from `ROWSEL` on (R132, R145). -/
theorem keeps_select (hselect : s.seq.selected = true → s.sel = s.rowselCode) : t.seq.selected = true → t.sel = t.rowselCode := by
  cases h with
  | rowsel => simp
  | oeoff | oeon => simp [Position.selected]
  | fetch hseq | send hseq | latchhi hseq | hold hseq | latchlo hseq => simpa using fun _ => hselect (by rw [hseq]; rfl)

end MicroStep

/-! ## The invariant of the engine, kept by every step -/

theorem inv_microStep {s t : State} (h : Inv s) (hm : MicroStep s t) : Inv t := by
  have hw : s.working = true := working_of_busy h hm.busy
  have hf : s.failed = false := ((working_iff s).1 hw).1
  have hframe := hm.frame
  exact {
    memory := hframe.mem ▸ h.memory
    failed := by rw [hframe.failed, hframe.panelsWide, hframe.panelsHigh, h.failed]
    stopped := fun hstop => by rw [hm.working, hw] at hstop; cases hstop
    counting := hm.keeps_counting (streamLen_pos h hf) h.counting
    counted := hm.keeps_counted h.counting h.counted
    directions := by rw [hframe.dir, hm.working, h.directions]
    clock := fun _ => hm.keeps_clock (h.clock hw)
    latch := fun _ => hm.keeps_latch (h.latch hw)
    dark := hm.keeps_dark h.dark
    select := hm.keeps_select h.select }

theorem inv_hostWrite {s : State} (h : Inv s) (i : Nat) (v : Byte) : Inv (hostWrite i v s) := by
  have hmem := hostWrite_wf h.memory i v
  rw [hostWrite_eq] at hmem ⊢
  exact ⟨hmem, h.failed, h.stopped, h.counting, h.counted, h.directions, h.clock, h.latch, h.dark, h.select⟩

/-- An idle engine meets the clauses about a scan. -/
theorem inv_of_idle {s : State} (hidle : s.seq = .idle) (hmem : s.mem.wf)
    (hfailed : s.failed = !topologyValid s.panelsWide s.panelsHigh)
    (hdir : s.dir = Lines.all (if s.working then Dir.out else Dir.inward))
    (hclock : s.working = true → s.clockIdle = true) (hlatch : s.working = true → s.latAsserted = false) : Inv s where
  memory := hmem
  failed := hfailed
  stopped _ := hidle
  counting hseq := by simp [hidle] at hseq
  counted hseq := by simp [hidle, Position.sent] at hseq
  directions := hdir
  clock := hclock
  latch hw := by rw [hlatch hw, hidle]; rfl
  dark hseq := by simp [hidle, Position.dark] at hseq
  select hseq := by simp [hidle, Position.selected] at hseq

theorem inv_resetSequence {s : State} (h : Inv s) (w height : Nat) : Inv (resetSequence w height s) := by
  cases hv : topologyValid w height with
  | true =>
    rw [resetSequence_valid s hv, resetValid_eq]
    refine inv_of_idle rfl h.memory ?_ rfl (fun _ => ?_) (fun _ => ?_)
    · simp [resetCommon, hv]
    · simp [State.clockIdle, Lines.resetLevels]
    · simp [State.latAsserted, Lines.resetLevels]
  | false =>
    rw [resetSequence_invalid s hv]
    refine inv_of_idle rfl h.memory ?_ rfl (fun hw => ?_) (fun hw => ?_)
    · simp [resetCommon, resetInvalid, hv]
    · cases hw
    · cases hw

/-- A held reset stops the engine and ends the buffer's life (R233). -/
theorem inv_teardown {s : State} (h : Inv s) : Inv (teardown s) := by
  have hstop := teardown_working s
  refine inv_of_idle rfl List.Pairwise.nil h.failed ?_ (fun hw => ?_) (fun hw => ?_)
  · rw [hstop]; rfl
  · rw [hstop] at hw; cases hw
  · rw [hstop] at hw; cases hw

theorem inv_respond_holdWords {s : State} (h : Inv s) (r : Response) (words : List (BitVec 8)) :
    Inv (respond r (holdWords words s)) :=
  ⟨h.memory, h.failed, h.stopped, h.counting, h.counted, h.directions, h.clock, h.latch, h.dark, h.select⟩

/-- An accepted `SCAN` finds a working idle engine (R111). -/
theorem inv_scan {s : State} (h : Inv s) (hidle : s.seq = .idle) (hw : s.working = true) (words : List (BitVec 8)) :
    Inv (goTo .oeoff (holdWords words s)) where
  memory := h.memory
  failed := h.failed
  stopped hstop := by simp [hw] at hstop
  counting hseq := by simp at hseq
  counted hseq := by simp [Position.sent] at hseq
  directions := h.directions
  clock := h.clock
  latch _ := by simpa [hidle, Position.latching] using h.latch hw
  dark hseq := by simp [Position.dark] at hseq
  select hseq := by simp [Position.selected] at hseq

/-- Settles O36: over everything a step can leave, the micro-operation of a scan being the case that uses the whole invariant. -/
theorem everyStepKeepsTheInvariant : Obligations.EveryStepKeepsTheInvariant := by
  intro s t hs h
  have hs := inv_taken hs
  rcases step_effects h with rfl | ⟨i, v, rfl⟩ | ⟨w, height, rfl⟩ | rfl | ⟨i, -, hi, he⟩ |
    ⟨words, hr, hidle, ⟨r, rfl⟩ | ⟨hf, rfl | ⟨p, rfl⟩⟩⟩
  · exact hs
  · exact inv_hostWrite hs i v
  · exact inv_resetSequence hs w height
  · exact inv_teardown hs
  · exact inv_microStep hs (microStep_of_exec hi he)
  · exact inv_respond_holdWords hs r words
  · exact inv_scan hs hidle ((working_iff _).2 ⟨hf, hr⟩) words
  · exact inv_nextPhase hs hidle p words

/-! ## The micro-operations one by one (R131 to R139) -/

/-- Settles O18: the output line alone is set, to the level that is off. -/
theorem oeoffDisablesTheOutput : Obligations.OeoffDisablesTheOutput := fun s =>
  have hoff : (goTo .rowsel (emit .oeOff (pinset .oe (!s.cfg.polOeOn) s))).oeOn = false := by simp
  ⟨_, exec_oeoff s, rfl, hoff, ledLit_of_off hoff, fun _ => rfl⟩

/-- Settles O19: the two lines set are the two bits of the code. -/
theorem rowselDrivesTheCode : Obligations.RowselDrivesTheCode := by
  intro s
  refine ⟨_, exec_rowsel s, ?_⟩
  refine ⟨?_, by simp, fun i => by simp⟩
  ext1 <;> simp [Lines.set]

/-- Settles O20: the range is that of the stream, and the read is `memRead`'s two cases. -/
theorem fetchReadsTheLiveByte : Obligations.FetchReadsTheLiveByte :=
  ⟨fun _ => fetchIndex_lt, fun _ h => ⟨_, exec_fetch h, rfl, fun _ => rfl⟩, fun _ => exec_fetch_fault⟩

/-- Settles O21: `SEND` is `SERBYTE` of `SR` with the count and the event around it. -/
theorem sendShiftsTheByteOut : Obligations.SendShiftsTheByteOut := by
  intro s
  refine ⟨_, exec_send s, ?_⟩
  have hclock : s.clockIdle = true ↔ s.lvl.sclk = s.cfg.sclkIdle := by simp [State.clockIdle]
  refine ⟨?_, fun hdir hidle => ?_, fun hdir => ?_, ?_, fun i => ?_⟩
  · ext1 <;> simp
  · simpa using serbyte_panel s.sr hdir (hclock.1 hidle)
  · simpa using serbyte_panel_undriven s.sr hdir
  · simp
  · simp

/-- Settles O22: the panel reacts to the assertion of a driven latch line, not to its deassertion. -/
theorem latchPairPulsesTheLatch : Obligations.LatchPairPulsesTheLatch := by
  refine ⟨fun s => ⟨_, exec_latchhi s, ?_, by simp, fun _ => rfl⟩, fun s => ⟨_, exec_latchlo s, ?_, by simp, fun _ => rfl⟩⟩
  · ext1 <;> simp [Panel.react, Panel.latch, Lines.set]
  · ext1 <;> simp [Panel.react, Lines.set]

/-- Settles O23: `HOLD` is its two events and the next position. -/
theorem holdOnlyWaits : Obligations.HoldOnlyWaits := fun s => ⟨_, exec_hold s, rfl, fun _ => rfl, fun _ => rfl⟩

/-- Settles O24: the output line alone is set, to the level that is on. -/
theorem oeonEnablesAndResponds : Obligations.OeonEnablesAndResponds := fun s =>
  ⟨_, exec_oeon s, rfl, by simp, rfl, fun _ => rfl⟩

/-- Settles O46: the lines each answer of an operation sets. -/
theorem linesHaveTheirDrivers : Obligations.LinesHaveTheirDrivers := by
  intro i s t h hne
  cases answer_of_exec h with
  | pinset line level => exact absurd rfl (hne line level)
  | _ => simp

/-! ## The sequencer (R130, R140) -/

theorem decode_scan : decode (.cmd 0x10#8) = .ok .scan := decode_encode .scan

/-- An idle engine starts a scan exactly when it is not failed and the word is `SCAN` (R111). -/
theorem issueWord_seq {w : BitVec 8} {s t : State} (hr : s.rst = false) (hidle : s.seq = .idle) (h : issueWord w s = .next t) :
    (t.seq = .oeoff ∧ s.failed = false ∧ w = 0x10#8) ∨ (t.seq = .idle ∧ ¬(s.failed = false ∧ w = 0x10#8)) := by
  by_cases hscan : s.failed = false ∧ w = 0x10#8
  · obtain ⟨hf, rfl⟩ := hscan
    rw [issueWord_ok hf decode_scan, exec_scan, acceptCommand_ready _ ((ready_iff s).2 ⟨hidle, hr, hf⟩)] at h
    obtain rfl := Host.Outcome.next.inj h
    exact .inl ⟨rfl, hf, rfl⟩
  · refine .inr ⟨?_, hscan⟩
    rcases issueWord_cases h with ⟨-, rfl⟩ | ⟨-, -, rfl⟩ | ⟨hf, i, hd, he⟩
    · exact hidle
    · exact hidle
    · have hready : s.ready = true := (ready_iff s).2 ⟨hidle, hr, hf⟩
      rcases decode_cmd_cases hd with rfl | rfl | ⟨n, rfl⟩
      · cases encode_of_decode hd
        exact absurd ⟨hf, rfl⟩ hscan
      · rw [exec_next, acceptCommand_ready _ hready] at he
        obtain rfl := Host.Outcome.next.inj he
        exact hidle
      · rw [exec_setph, acceptCommand_ready _ hready] at he
        obtain rfl := Host.Outcome.next.inj he
        exact hidle

/-- Settles O7: a micro-operation goes to its successor, an idle engine to what the word at the port says. -/
theorem sequencerFollowsTheSuccessorTable : Obligations.SequencerFollowsTheSuccessorTable := by
  intro s t hruns hr h
  rw [step_run hruns] at h
  rcases engineStep_cases h with ⟨rfl, hstop⟩ | ⟨i, -, hm, he⟩ | ⟨w, rest, -, hidle, hc, hw⟩
  · obtain ⟨hidle, hc⟩ : s.seq = .idle ∧ s.cmds = [] := by simpa [hr] using hstop
    simp [hidle, hc]
  · cases microStep_of_exec hm he with
    | send hseq =>
      rw [taken_seq] at hseq
      by_cases hmore : s.k + 1 < s.streamLen <;> simp [hseq, hmore]
    | oeoff hseq | rowsel hseq | fetch hseq | latchhi hseq | hold hseq | latchlo hseq | oeon hseq =>
      rw [taken_seq] at hseq
      simp [hseq]
  · rw [taken_seq] at hidle
    rw [taken_cmds] at hc
    simpa [hidle, hc] using issueWord_seq (s := holdWords rest s.taken) hr hidle hw

/-- Settles O17: a scan in progress takes no word, a micro-operation keeps its frame, and a host write changes the buffer alone. -/
theorem nothingButResetDisturbsAScan : Obligations.NothingButResetDisturbsAScan := by
  intro s t hbusy h
  rcases step_cases h with ⟨i, v, -, -, rfl⟩ | ⟨w, height, rest, henv, -⟩ | ⟨rest, henv, -⟩ | ⟨hruns, he⟩
  · rw [hostWrite_eq]
    exact .inr (.inr ⟨rfl, rfl, rfl, rfl, rfl, rfl, rfl, .inl rfl⟩)
  · exact .inl ⟨w, height, rest, henv⟩
  · exact .inr (.inl ⟨rest, henv⟩)
  · refine .inr (.inr ?_)
    rcases engineStep_cases he with ⟨rfl, -⟩ | ⟨i, hr, hm, he⟩ | ⟨-, -, -, hidle, -⟩
    · exact ⟨rfl, rfl, rfl, rfl, rfl, rfl, rfl, .inl rfl⟩
    · have hkept := (microStep_of_exec hm he).frame
      exact ⟨hkept.phase, hkept.failed, hkept.dir, hkept.panelsWide, hkept.panelsHigh, hkept.cfg, hkept.cmds, .inr ⟨hruns, hr⟩⟩
    · exact absurd hidle hbusy

/-! ## No run stops (R140) -/

theorem acceptCommand_answers (f : State → State) (s : State) : ∃ t, acceptCommand f s = .next t := by
  unfold acceptCommand
  split_ifs <;> exact ⟨_, rfl⟩

/-- Only `FETCH` can stop, on an index outside the buffer (log 16). -/
theorem exec_answers {i : Instr} {s : State} (h : i = .fetch → s.fetchIndex < s.fbLen) : ∃ t, exec i s = .next t := by
  cases i with
  | scan => exact acceptCommand_answers _ s
  | next => rw [exec_next]; exact acceptCommand_answers _ s
  | setph n => rw [exec_setph]; exact acceptCommand_answers _ s
  | fetch => exact ⟨_, exec_fetch (h rfl)⟩
  | _ => exact ⟨_, rfl⟩

theorem issueWord_answers (w : BitVec 8) (s : State) : ∃ t, issueWord w s = .next t := by
  unfold issueWord
  split
  · exact ⟨_, rfl⟩
  · split
    · rename_i i hd
      refine exec_answers fun hi => ?_
      rcases decode_cmd_cases hd with rfl | rfl | ⟨n, rfl⟩ <;> cases hi
    · exact ⟨_, rfl⟩

theorem microOp_eq_fetch {p : Position} (h : microOp p = some .fetch) : p = .fetch := by
  cases p <;> cases h
  rfl

/-- Inside the loop the index `FETCH` reads is in the buffer (R66). -/
theorem engineStep_answers {s : State} (h : Inv s) : ∃ t, engineStep s = .next t := by
  cases hr : s.rst with
  | true => exact ⟨s, engineStep_rst hr⟩
  | false =>
    cases hm : microOp s.seq with
    | some i =>
      rw [engineStep_micro hr hm]
      exact exec_answers fun hi => fetchIndex_lt (h.counting (.inl (microOp_eq_fetch (hi ▸ hm))))
    | none =>
      rw [engineStep_idle hr (microOp_none.1 hm), acceptWord]
      split
      · exact ⟨s, rfl⟩
      · exact issueWord_answers _ _

/-- Settles O40: the outside's actions are always answered, and the engine answers under the invariant. -/
theorem theMachineNeverStops : Obligations.TheMachineNeverStops := by
  intro s h
  rcases henv : s.env with _ | ⟨action, rest⟩
  · rw [step_run (.inl henv)]
    exact engineStep_answers (inv_taken h)
  · cases action with
    | run =>
      rw [step_run (.inr ⟨rest, henv⟩)]
      exact engineStep_answers (inv_taken h)
    | write i v => exact ⟨_, step_write henv⟩
    | reset w height | holdReset =>
      rw [step, henv]
      exact ⟨_, rfl⟩

/-! ## The output is off from reset to the first `OEON` (R131, R139, R143a) -/

/-- `OEON` records its event, and no other operation of a scan puts the output on. -/
theorem MicroStep.keeps_off {s t : State} (h : MicroStep s t) (hoff : ByteEvent.oeOn ∉ s.byteTrace → s.oeOn = false) :
    ByteEvent.oeOn ∉ t.byteTrace → t.oeOn = false := by
  cases h with
  | oeoff | oeon => simp
  | _ => simpa using hoff

theorem darkBeforeOeon_microStep {s t : State} (h : DarkBeforeOeon s) (hm : MicroStep s t) : DarkBeforeOeon t :=
  fun hw => hm.keeps_off (h (hm.working ▸ hw))

theorem darkBeforeOeon_step {s t : State} (hs : DarkBeforeOeon s) (h : step s = .next t) : DarkBeforeOeon t := by
  have hs := darkBeforeOeon_taken hs
  rcases step_effects h with rfl | ⟨i, v, rfl⟩ | ⟨w, height, rfl⟩ | rfl | ⟨i, -, hi, he⟩ |
    ⟨words, -, -, ⟨r, rfl⟩ | ⟨-, rfl | ⟨p, rfl⟩⟩⟩
  · exact hs
  · rw [hostWrite_eq]; exact hs
  · exact fun hw _ => resetSequence_oeOn hw
  · exact fun hw => by rw [teardown_working] at hw; cases hw
  · exact darkBeforeOeon_microStep hs (microStep_of_exec hi he)
  · exact hs
  · exact hs
  · exact hs

/-- Settles O41: no LED is lit while the output is off. -/
theorem noLedIsLitInsideAScan : Obligations.NoLedIsLitInsideAScan := by
  refine ⟨fun s j r xl h hdark => ?_, fun c w height j r xl => ⟨?_, fun _ _ => ?_⟩, fun s t => darkBeforeOeon_step,
    fun s j r xl h hw hnone => ?_⟩
  · exact ledLit_of_off (h.dark hdark) j r xl
  · exact ledLit_of_off (afterReset_oeOn c w height) j r xl
  · exact afterReset_oeOn c w height
  · exact ledLit_of_off (h hw hnone) j r xl

/-! ## What the panel shows belongs to one scan (R144, R145) -/

theorem MicroStep.panelFits {s t : State} (h : MicroStep s t) : t.panelFits ↔ s.panelFits := by
  have hchain : t.panel.chain.length = s.panel.chain.length := by cases h <;> simp
  rw [State.panelFits, State.panelFits, hchain, State.panels, h.frame.panelsWide, h.frame.panelsHigh, State.panels]

theorem chain_length_of_panelFits {s : State} (hfits : s.panelFits) : s.panel.chain.length = 8 * s.streamLen := by
  rw [hfits, State.streamLen]
  ring

/-- The byte sent joins the bytes of this scan at the end of the chain (R182). -/
theorem serbyte_rx_drop (b : Byte) {s : State} (h : Inv s) (hw : s.working = true) (hfits : s.panelFits) (hlt : s.k < s.streamLen) :
    (serbyte b s).panel.rx.drop (s.streamLen - (s.k + 1)) = s.panel.rx.drop (s.streamLen - s.k) ++ [b] := by
  have hlen := chain_length_of_panelFits hfits
  have hdir : s.dir.sclk = .out := by rw [dir_of_working h hw, lines_all_sclk]
  have hidle : s.lvl.sclk = s.cfg.sclkIdle := by simpa [State.clockIdle] using h.clock hw
  rw [serbyte_rx b hdir hidle hlen, List.drop_drop, show 1 + (s.streamLen - (s.k + 1)) = s.streamLen - s.k by omega]
  exact List.drop_append_of_le_length (by rw [rx_length hlen]; omega)

/-- The assertion of the latch of a working engine (R183). -/
theorem latchhi_panel {s : State} (h : Inv s) (hw : s.working = true) (hseq : s.seq = .latchhi) :
    (pinset .lat s.cfg.polLatActive s).panel = s.panel.latch := by
  have hlat : s.lvl.lat = !s.cfg.polLatActive := by
    simpa [State.latAsserted, hseq, Position.latching, Bool.eq_not] using h.latch hw
  simp [Panel.react, State.pad, Lines.get, dir_of_working h hw, hlat]

/-- The code in the trace is the one `ROWSEL` put on the lines. -/
theorem MicroStep.keeps_code {s t : State} (hm : MicroStep s t) (hp : PanelInv s) (hw : s.working = true)
    (hseq' : t.seq.selected = true ∨ t.oeOn = true) :
    sentCode t.byteTrace = some t.sel := by
  cases hm with
  | oeoff => simp [Position.selected] at hseq'
  | rowsel => simp
  | fetch hseq | send hseq | latchhi hseq | hold hseq | latchlo hseq | oeon hseq =>
    simpa using hp.code hw (.inl (by rw [hseq]; rfl))

section PanelStep

variable {s t : State} (hm : MicroStep s t) (h : Inv s) (hp : PanelInv s) (hw : s.working = true)
include hm h hp hw

theorem MicroStep.keeps_shifting (hfits : s.panelFits) (hseq' : t.seq = .fetch ∨ t.seq = .send) :
    (sentBytes t.byteTrace).length = t.k ∧ t.panel.rx.drop (t.streamLen - t.k) = sentBytes t.byteTrace := by
  cases hm with
  | rowsel hseq => simpa using (rx_length (chain_length_of_panelFits hfits)).le
  | fetch hseq => simpa using hp.shifting hw hfits (.inl hseq)
  | send hseq =>
    obtain ⟨hcount, hbytes⟩ := hp.shifting hw hfits (.inr hseq)
    have hrx := serbyte_rx_drop s.sr h hw hfits (h.counting (.inr hseq))
    simp [hcount, hrx, hbytes]
  | _ => simp at hseq'

theorem MicroStep.keeps_shifted (hfits : s.panelFits) (hseq' : t.seq = .latchhi) : t.panel.rx = sentBytes t.byteTrace := by
  cases hm with
  | send hseq =>
    obtain ⟨-, hbytes⟩ := hp.shifting hw hfits (.inr hseq)
    have hrx := serbyte_rx_drop s.sr h hw hfits (h.counting (.inr hseq))
    have hlast : s.streamLen ≤ s.k + 1 := by simpa using hseq'
    simpa [Nat.sub_eq_zero_of_le hlast, hbytes] using hrx
  | _ => simp at hseq'

theorem MicroStep.keeps_shown (hfits : s.panelFits) (hseq' : t.seq = .hold ∨ t.seq = .latchlo ∨ t.seq = .oeon ∨ t.oeOn = true) :
    t.panel.latched = sentBytes t.byteTrace := by
  cases hm with
  | oeoff => simp at hseq'
  | rowsel hseq | fetch hseq | send hseq =>
    have hoff := h.dark (by rw [hseq]; rfl)
    simp [hoff, ite_eq_iff] at hseq'
  | latchhi hseq =>
    have hpanel := latchhi_panel h hw hseq
    simp only [pinset_panel] at hpanel
    simpa [hpanel, Panel.latch] using hp.shifted hw hfits hseq
  | hold hseq => simpa using hp.shown hw hfits (.inl hseq)
  | latchlo hseq => simpa [Panel.react] using hp.shown hw hfits (.inr (.inl hseq))
  | oeon hseq => simpa using hp.shown hw hfits (.inr (.inr (.inl hseq)))

theorem panelInv_microStep : PanelInv t where
  shifting _ hfits := hm.keeps_shifting h hp hw (hm.panelFits.1 hfits)
  shifted _ hfits := hm.keeps_shifted h hp hw (hm.panelFits.1 hfits)
  shown _ hfits := hm.keeps_shown h hp hw (hm.panelFits.1 hfits)
  code _ := hm.keeps_code hp hw

end PanelStep

/-- With the engine idle and the output off no clause about the panel asks anything. -/
theorem panelInv_of_off {s : State} (hidle : s.seq = .idle) (hoff : s.working = true → s.oeOn = false) : PanelInv s where
  shifting _ _ hseq := by simp [hidle] at hseq
  shifted _ _ hseq := by simp [hidle] at hseq
  shown hw _ hseq := by simp [hidle, hoff hw] at hseq
  code hw hseq := by simp [hidle, hoff hw, Position.selected] at hseq

theorem panelInv_hostWrite {s : State} (h : PanelInv s) (i : Nat) (v : Byte) : PanelInv (hostWrite i v s) := by
  rw [hostWrite_eq]
  exact ⟨h.shifting, h.shifted, h.shown, h.code⟩

/-- An accepted `SCAN` leaves what is shown alone (R111). -/
theorem panelInv_scan {s : State} (h : PanelInv s) (words : List (BitVec 8)) : PanelInv (goTo .oeoff (holdWords words s)) where
  shifting _ _ hseq := by simp at hseq
  shifted _ _ hseq := by simp at hseq
  shown hw hfits hseq := h.shown hw hfits (.inr (.inr (.inr (by simpa using hseq))))
  code hw hseq := h.code hw (.inr (by simpa [Position.selected] using hseq))

/-- Settles O37: over everything a step can leave; the host's writes do not touch the panel, and a reset leaves the output off. -/
theorem everyStepKeepsThePanelInvariant : Obligations.EveryStepKeepsThePanelInvariant := by
  intro s t hs hp h
  have hs := inv_taken hs
  have hp := panelInv_taken hp
  rcases step_effects h with rfl | ⟨i, v, rfl⟩ | ⟨w, height, rfl⟩ | rfl | ⟨i, -, hi, he⟩ |
    ⟨words, -, -, ⟨r, rfl⟩ | ⟨-, rfl | ⟨p, rfl⟩⟩⟩
  · exact hp
  · exact panelInv_hostWrite hp i v
  · exact panelInv_of_off (resetSequence_seq w height _) resetSequence_oeOn
  · exact panelInv_of_off rfl fun hw => by rw [teardown_working] at hw; cases hw
  · have hm := microStep_of_exec hi he
    exact panelInv_microStep hm hs hp (working_of_busy hs hm.busy)
  · exact ⟨hp.shifting, hp.shifted, hp.shown, hp.code⟩
  · exact panelInv_scan hp words
  · exact ⟨hp.shifting, hp.shifted, hp.shown, hp.code⟩

/-! ## The latch pulse in time (R137, R241, R247) -/

/-- Where a latch pulse asserted at `since` stands at time `now`: the watch has seen the assertion, and if it has seen the hold after it,
`T_LATCH_MIN` has passed. -/
def PulseTimed (c : Config) (since : Option Nat) (w : LineWatch) (now : Nat) : Prop :=
  ∀ t, since = some t → w.latched = true ∧ t ≤ now ∧ (w.held = true → t + c.tLatchMinUs ≤ now)

/-- The event sets the latch line. -/
def PinEvent.setsLatch (e : PinEvent) : Prop := ∃ level, e = .set .lat level

section Pulse

variable {c : Config} {n : Nat} {w w' : LineWatch}

/-- An order once broken stays broken. -/
theorem watchPin_foldl_none (events : List PinEvent) : events.foldl (watchPin c n) none = none := by
  induction events with
  | nil => rfl
  | cons e events ih => exact ih

/-- The watch sees an assertion as the start of a pulse not held yet. -/
theorem watchPin_assert (h : watchPin c n (some w) (.set .lat c.polLatActive) = some w') : w'.latched = true ∧ w'.held = false := by
  simp only [watchPin, if_true, Option.ite_none_left_eq_some, Option.some.injEq] at h
  obtain ⟨-, rfl⟩ := h
  exact ⟨rfl, rfl⟩

/-- A latch that is deasserted was held since it was asserted (R242). -/
theorem watchPin_deassert {level : Level} (hlevel : level ≠ c.polLatActive) (h : watchPin c n (some w) (.set .lat level) = some w')
    (hlatched : w.latched = true) : w.held = true := by
  simp only [watchPin, if_neg hlevel, hlatched, Option.ite_none_left_eq_some] at h
  simpa using h.1

/-- Events of other lines leave the pulse as it is, and only `HOLD` marks it held. -/
theorem watchPin_other {e : PinEvent} (he : ¬e.setsLatch) (h : watchPin c n (some w) e = some w') :
    w'.latched = w.latched ∧ (w'.held = true → w.held = true ∨ e = .hold) := by
  cases e with
  | dirset line => cases h; exact ⟨rfl, .inl⟩
  | hold =>
    simp only [watchPin, Option.ite_none_right_eq_some, Option.some.injEq] at h
    obtain ⟨-, rfl⟩ := h
    exact ⟨rfl, fun _ => .inr rfl⟩
  | set line level =>
    cases line with
    | lat => exact absurd ⟨level, rfl⟩ he
    | sdata => cases h; exact ⟨rfl, .inl⟩
    | oe | a | b | sclk =>
      simp only [watchPin] at h
      split_ifs at h <;> cases h <;> exact ⟨rfl, .inl⟩

theorem latchPulsesWide_assert {since : Option Nat} {now : Nat} {rest : TimedTrace} :
    latchPulsesWide c since ((now, .set .lat c.polLatActive) :: rest) ↔ latchPulsesWide c (some now) rest := by
  simp [latchPulsesWide]

theorem latchPulsesWide_deassert {since : Option Nat} {now : Nat} {level : Level} {rest : TimedTrace} (hlevel : level ≠ c.polLatActive) :
    latchPulsesWide c since ((now, .set .lat level) :: rest) ↔
      (∀ t, since = some t → t + c.tLatchMinUs ≤ now) ∧ latchPulsesWide c none rest := by
  simp [latchPulsesWide, hlevel]

theorem latchPulsesWide_other {since : Option Nat} {now : Nat} {e : PinEvent} {rest : TimedTrace} (he : ¬e.setsLatch) :
    latchPulsesWide c since ((now, e) :: rest) ↔ latchPulsesWide c since rest := by
  cases e with
  | set line level =>
    cases line with
    | lat => exact absurd ⟨level, rfl⟩ he
    | _ => rfl
  | _ => rfl

/-- Time passes, and the pulse is held only after `T_LATCH_MIN` (R137). -/
theorem pulseTimed_other {since : Option Nat} {now later : Nat} {e : PinEvent} (he : ¬e.setsLatch)
    (h : watchPin c n (some w) e = some w') (hp : PulseTimed c since w now) (hle : now ≤ later)
    (hhold : e = .hold → now + c.tLatchMinUs ≤ later) : PulseTimed c since w' later := by
  intro t ht
  obtain ⟨hlatched, hsince, hheld⟩ := hp t ht
  obtain ⟨hlatched', hheld'⟩ := watchPin_other he h
  refine ⟨hlatched'.trans hlatched, hsince.trans hle, fun hw => ?_⟩
  rcases hheld' hw with hw | rfl
  · exact (hheld hw).trans hle
  · exact (Nat.add_le_add_right hsince _).trans (hhold rfl)

/-- From any moment on: if the events still to come keep the order and the duty of `HOLD`, their latch pulses are wide. -/
theorem latchPulsesWide_of_watch {timed : TimedTrace} {since : Option Nat} {now : Nat} {last : PinEvent}
    (htime : keepsHoldTime c ((now, last) :: timed)) (hp : PulseTimed c since w now)
    (horder : (timed.map Prod.snd).foldl (watchPin c n) (some w) ≠ none) : latchPulsesWide c since timed := by
  induction timed generalizing since now last w with
  | nil => trivial
  | cons event rest ih =>
    obtain ⟨later, e⟩ := event
    obtain ⟨hle, hhold, hrest⟩ := htime
    simp only [List.map_cons, List.foldl_cons] at horder
    cases hw : watchPin c n (some w) e with
    | none => exact absurd (by rw [hw]; exact watchPin_foldl_none _) horder
    | some w' =>
      rw [hw] at horder
      by_cases he : e.setsLatch
      · obtain ⟨level, rfl⟩ := he
        by_cases hlevel : level = c.polLatActive
        · subst hlevel
          obtain ⟨hlatched, hheld⟩ := watchPin_assert hw
          refine latchPulsesWide_assert.2 (ih hrest (fun t ht => ?_) horder)
          cases ht
          exact ⟨hlatched, le_rfl, fun hw => by rw [hheld] at hw; cases hw⟩
        · refine (latchPulsesWide_deassert hlevel).2 ⟨fun t ht => ?_, ih hrest (fun t ht => by cases ht) horder⟩
          obtain ⟨hlatched, -, hheld⟩ := hp t ht
          exact (hheld (watchPin_deassert hlevel hw hlatched)).trans hle
      · exact (latchPulsesWide_other he).2 (ih hrest (pulseTimed_other he hw hp hle hhold) horder)

end Pulse

/-- Settles O42: the watch of `OrderInv`, run along the time stamps from the start, when no pulse is open. -/
theorem latchPulseLastsTheHoldTime : Obligations.LatchPulseLastsTheHoldTime := by
  intro s timed hw horder htrace htime
  obtain ⟨w, hwatch, -⟩ := horder.watched hw
  rw [← htrace] at hwatch
  cases timed with
  | nil => trivial
  | cons event rest =>
    have hnot : event.2 ≠ .hold := by
      intro hhold
      have hbroken : watchPin s.cfg (8 * s.streamLen) (some LineWatch.start) .hold = none := rfl
      rw [watchPins, List.map_cons, List.foldl_cons, hhold, hbroken, watchPin_foldl_none] at hwatch
      cases hwatch
    exact latchPulsesWide_of_watch (last := .dirset .oe) ⟨Nat.zero_le _, fun hhold => absurd hhold hnot, htime⟩
      (fun t ht => by cases ht) (by rw [← watchPins, hwatch]; exact Option.some_ne_none w)

end Sys2Proof.Machine
end

section
/-! PROOFS. The statements about 42_pin_serial_primitives.md: the three primitives one by one, and the byte-level trace as the image of the
pin-level trace (R161 to R169). -/

namespace Sys2Proof.Machine

/-! ## `PINDIR` (R161) -/

theorem pindir_pad (line : Line) (s : State) : (pindir line s).pad line = some (s.lvl.get line) := by
  simp [State.pad, lines_get_set_same]

/-- Settles O25: the one direction set makes the line's pad carry its level. -/
theorem pindirDrivesTheLine : Obligations.PindirDrivesTheLine := fun s line =>
  ⟨pindir line s, exec_pindir line s, rfl, pindir_pad line s,
    fun other => lines_get_set_other s.dir line other .out, pindir_byteAt line s⟩

/-! ## `PINSET`, and the two edges the panel knows (R162, R182, R183) -/

theorem react_leadingEdge (p : Panel) (c : Config) (data : Level) :
    p.react c data .sclk (some c.sclkIdle) (!c.sclkIdle) = p.shift data := by
  simp [Panel.react]

theorem react_latchAssertion (p : Panel) (c : Config) (data : Level) :
    p.react c data .lat (some (!c.polLatActive)) c.polLatActive = p.latch := by
  simp [Panel.react]

/-- No other change than the leading edge of the clock and the assertion of the latch moves the panel. -/
theorem react_of_no_edge (p : Panel) {c : Config} (data : Level) {line : Line} {before : Option Level} {level : Level}
    (hclk : ¬(line = .sclk ∧ before = some c.sclkIdle ∧ level = !c.sclkIdle))
    (hlat : ¬(line = .lat ∧ before = some (!c.polLatActive) ∧ level = c.polLatActive)) :
    p.react c data line before level = p := by
  cases line with
  | sclk => exact if_neg fun hedge => hclk ⟨rfl, hedge⟩
  | lat => exact if_neg fun hedge => hlat ⟨rfl, hedge⟩
  | oe | a | b | sdata => rfl

/-- Settles O26: the lines are those of `Lines.set`, and the panel's clauses are the two edges of `Panel.react` and their absence. -/
theorem pinsetSetsOneLevel : Obligations.PinsetSetsOneLevel := by
  intro s line level
  refine ⟨pinset line level s, exec_pinset line level s, rfl, lines_get_set_same s.lvl line level,
    fun other => lines_get_set_other s.lvl line other level, ?_, ?_, fun hclk hlat => ?_, pinset_byteAt line level s⟩
  · rintro rfl hpad rfl
    rw [pinset_panel, hpad, react_leadingEdge, Panel.shift]
  · rintro rfl hpad rfl
    rw [pinset_panel, hpad, react_latchAssertion, Panel.latch]
  · exact react_of_no_edge s.panel s.lvl.sdata (fun ⟨hl, hedge⟩ => hclk ⟨hl, hl ▸ hedge⟩) fun ⟨hl, hedge⟩ => hlat ⟨hl, hl ▸ hedge⟩

/-! ## `SERBYTE` (R163 to R169) -/

/-- The events of a byte, bit 7 first, three a bit (R93, R164). -/
theorem serialEvents_eq (c : Config) (b : Byte) : serialEvents c b = [7, 6, 5, 4, 3, 2, 1, 0].flatMap fun n =>
    [.set .sdata (b.getLsbD n), .set .sclk (!c.sclkIdle), .set .sclk c.sclkIdle] := by
  rw [serialEvents, byteBits_eq]
  rfl

@[simp] theorem serialEvents_length (c : Config) (b : Byte) : (serialEvents c b).length = 24 := by
  rw [serialEvents_eq]
  rfl

/-- Settles O27: `SERBYTE` as one record, with its events written out. -/
theorem serbyteSendsEightBits : Obligations.SerbyteSendsEightBits := by
  intro s b
  refine ⟨serbyte b s, exec_serbyte b s, ?_, ?_, by simp, serbyte_clockIdle b s, serbyte_byteAt b s⟩
  · rw [serbyte_pinTrace]
    exact serbyte_eq b s
  · rw [serbyte_pinTrace, serialEvents_eq]

/-! ## The byte-level trace is the image of the pin-level trace (R166) -/

/-- A reader at the start of a byte reads the pin-level events as the byte-level events and is at the start of a byte again. -/
def ReadsAs (c : Config) (pins : List PinEvent) (events : List ByteEvent) : Prop :=
  ∀ r : PinReader, r.bits = [] →
    (pins.foldl (readPin c) r).bits = [] ∧ (pins.foldl (readPin c) r).events = r.events ++ events

/-- No byte is half read, and what was read of the pin-level trace is the byte-level trace. -/
def TracesRelated (s : State) : Prop :=
  (readPins s.cfg s.pinTrace).bits = [] ∧ (readPins s.cfg s.pinTrace).events = s.byteTrace

theorem readsAs_oeOff (c : Config) : ReadsAs c [.set .oe (!c.polOeOn)] [.oeOff] := by
  simp [ReadsAs, readPin, PinReader.say]

theorem readsAs_oeOn (c : Config) : ReadsAs c [.set .oe c.polOeOn] [.oeOn] := by
  simp [ReadsAs, readPin, PinReader.say]

/-- The level of B is read with the level A was set to just before (R132). -/
theorem readsAs_sel (c : Config) (code : BitVec 2) :
    ReadsAs c [.set .a (code.getLsbD 0), .set .b (code.getLsbD 1)] [.sel code] := fun _ hr =>
  ⟨hr, congrArg (fun code => _ ++ [ByteEvent.sel code]) (code_bits code)⟩

/-- The eight bits read make the byte sent (R164). -/
theorem readsAs_tx (c : Config) (b : Byte) : ReadsAs c (serialEvents c b) [.tx b] := fun r hr => by
  rw [readPins_serialEvents c b hr]
  exact ⟨hr, rfl⟩

theorem readsAs_latAssert (c : Config) : ReadsAs c [.set .lat c.polLatActive] [.latAssert] := by
  simp [ReadsAs, readPin, PinReader.say]

theorem readsAs_hold (c : Config) : ReadsAs c [.hold] [.hold] := fun _ hr => ⟨hr, rfl⟩

theorem readsAs_latDeassert (c : Config) : ReadsAs c [.set .lat (!c.polLatActive)] [.latDeassert] := by
  simp [ReadsAs, readPin, PinReader.say]

/-- Traces stay related when each gets the other's image appended. -/
theorem TracesRelated.append {s t : State} (h : TracesRelated s) {pins : List PinEvent} {events : List ByteEvent}
    (hreads : ReadsAs s.cfg pins events) (hcfg : t.cfg = s.cfg) (hpins : t.pinTrace = s.pinTrace ++ pins)
    (hbytes : t.byteTrace = s.byteTrace ++ events) : TracesRelated t := by
  obtain ⟨hbits, hevents⟩ := h
  rw [TracesRelated, hcfg, hpins, hbytes, readPins_append, ← hevents]
  exact hreads _ hbits

/-- What every micro-operation records at the pin level is read as what it records at the byte level (R131 to R139). -/
theorem MicroStep.keeps_traces {s t : State} (hm : MicroStep s t) (h : TracesRelated s) : TracesRelated t := by
  cases hm with
  | oeoff => exact h.append (readsAs_oeOff s.cfg) rfl rfl rfl
  | rowsel => exact h.append (readsAs_sel s.cfg s.rowselCode) rfl (by simp) rfl
  | fetch => exact h
  | send => exact h.append (readsAs_tx s.cfg s.sr) (by simp) (by simp) (by simp)
  | latchhi => exact h.append (readsAs_latAssert s.cfg) rfl rfl rfl
  | hold => exact h.append (readsAs_hold s.cfg) rfl rfl rfl
  | latchlo => exact h.append (readsAs_latDeassert s.cfg) rfl rfl rfl
  | oeon => exact h.append (readsAs_oeOn s.cfg) rfl rfl rfl

/-- A reset forgets both traces, and its `DIRSET` events are nothing at the byte level (R231). -/
theorem tracesRelated_resetSequence (w height : Nat) (s : State) : TracesRelated (resetSequence w height s) := by
  cases hv : topologyValid w height with
  | true =>
    rw [resetSequence_valid s hv, resetValid_eq]
    exact ⟨rfl, rfl⟩
  | false =>
    rw [resetSequence_invalid s hv]
    exact ⟨rfl, rfl⟩

theorem tracesRelated_step {s t : State} (hs : TracesRelated s) (h : step s = .next t) : TracesRelated t := by
  have hs : TracesRelated s.taken := hs
  rcases step_effects h with rfl | ⟨i, v, rfl⟩ | ⟨w, height, rfl⟩ | rfl | ⟨i, -, hi, he⟩ |
    ⟨words, -, -, ⟨r, rfl⟩ | ⟨-, rfl | ⟨p, rfl⟩⟩⟩
  · exact hs
  · rw [hostWrite_eq]; exact hs
  · exact tracesRelated_resetSequence w height s.taken
  · exact hs
  · exact (microStep_of_exec hi he).keeps_traces hs
  · exact hs
  · exact hs
  · exact hs

/-- Settles O39: the reader passes over the six `DIRSET` events of a reset, and every step keeps the traces related. -/
theorem tracesStayRelated : Obligations.TracesStayRelated :=
  ⟨fun _ _ _ => rfl, fun _ _ hbits hevents h => tracesRelated_step ⟨hbits, hevents⟩ h⟩

end Sys2Proof.Machine
end

section
/-! PROOFS. The statements about 45_panel_reference.md: bytes entering the panel's chain, of the topology's length or another, and the LEDs an
undisturbed scan lights (R181 to R191). -/

namespace Sys2Proof.Machine

/-! ## Bytes entering the chain (R181, R182, R191) -/

theorem clockIdle_iff (s : State) : s.clockIdle = true ↔ s.lvl.sclk = s.cfg.sclkIdle := beq_iff_eq

/-- Settles O28: the chain is not empty, so the byte lost is one of the old ones. -/
theorem sentByteEntersTheChain : Obligations.SentByteEntersTheChain := by
  intro s b n hdir hclock hchain
  have holdest : 1 ≤ s.panel.rx.length := by rw [rx_length hchain]; omega
  refine ⟨serbyte b s, exec_serbyte b s, ?_, rx_length (by rw [serbyte_chain_length, hchain])⟩
  rw [serbyte_rx b hdir ((clockIdle_iff s).1 hclock) hchain, List.drop_append_of_le_length holdest]

theorem serbyte_foldl_chain_length (bytes : List Byte) (s : State) :
    (bytes.foldl (fun s b => serbyte b s) s).panel.chain.length = s.panel.chain.length := by
  induction bytes generalizing s with
  | nil => rfl
  | cons b bytes ih => rw [List.foldl_cons, ih, serbyte_chain_length]

theorem serbyte_foldl_latched (bytes : List Byte) (s : State) :
    (bytes.foldl (fun s b => serbyte b s) s).panel.latched = s.panel.latched := by
  induction bytes generalizing s with
  | nil => rfl
  | cons b bytes ih => rw [List.foldl_cons, ih, serbyte_latched]

/-- Bytes sent one after the other come last in a chain of whole bytes and push out as many of the oldest, whatever its length. -/
theorem serbyte_foldl_rx (bytes : List Byte) {s : State} {n : Nat} (hdir : s.dir.sclk = .out) (hidle : s.lvl.sclk = s.cfg.sclkIdle)
    (hchain : s.panel.chain.length = 8 * n) :
    (bytes.foldl (fun s b => serbyte b s) s).panel.rx = (s.panel.rx ++ bytes).drop bytes.length := by
  induction bytes generalizing s with
  | nil => simp
  | cons b bytes ih =>
    have hsent := ih (s := serbyte b s) (by rwa [serbyte_dir]) (by simp) (by rwa [serbyte_chain_length])
    rw [List.foldl_cons, hsent, serbyte_rx b hdir hidle hchain, ← List.drop_append_of_le_length (by simp), List.drop_drop,
      List.append_assoc, List.singleton_append, List.length_cons, Nat.add_comm]

/-- Settles O59: the bytes sent push out the oldest ones, and the latches are counted from the newest. -/
theorem chainOfAnotherLengthShiftsAlong : Obligations.ChainOfAnotherLengthShiftsAlong := by
  refine ⟨fun s bytes n hdir hclock hchain => ?_, fun s b => exec_serbyte b s, fun s older bytes j n hlatched hlen hj hn => ?_⟩
  · exact ⟨serbyte_foldl_rx bytes hdir ((clockIdle_iff s).1 hclock) hchain,
      rx_length (by rw [serbyte_foldl_chain_length, hchain]), serbyte_foldl_latched bytes s⟩
  · have hlt : 16 * j + n < bytes.length := by omega
    rw [latchByte_of_last hlatched hlen hj hn bytes[16 * j + n], List.getD_eq_getElem _ _ hlt, List.getElem?_eq_getElem hlt]

/-! ## The LEDs of a scan (R184 to R189) -/

/-- The panel decodes the engine's code of a phase to the group after the phase (R188). -/
theorem applyCodes_of_cyclicMapping {c : Config} (h : cyclicMapping c = true) (p : BitVec 2) :
    applyCodes c.panelRowdec (applyCodes c.rowselCode p) = p + 1 := by
  have hall : ∀ q ∈ [0#2, 1#2, 2#2, 3#2], applyCodes c.panelRowdec (applyCodes c.rowselCode q) = q + 1 := by
    simpa [cyclicMapping] using h
  have hmem : ∀ q : BitVec 2, q ∈ [0#2, 1#2, 2#2, 3#2] := by decide
  exact hall p (hmem p)

/-- The stream's byte for panel j, block m, byte column c of that panel lies in buffer row `4m + p` (R89, R185). -/
theorem src_of_slot (o : StreamOrder) (P j : Nat) (p : BitVec 2) {m c : Nat} (hm : m < 4) (hc : c < 4) :
    src o P p (16 * j + streamSlot o m c) = 4 * P * (4 * m + p.toNat) + (4 * j + c) := by
  have hslot := streamSlot_lt o hm hc
  rw [src_eq_row_column, Nat.mul_add_mod, Nat.mod_eq_of_lt hslot, Nat.mul_add_div (by decide), Nat.div_eq_of_lt hslot,
    streamRegion_slot o hm hc, streamColumn_slot o hm hc, Nat.add_zero]

/-- The buffer row of a pixel whose row group is the one after phase p (R56, R58). -/
theorem bufferRow_of_group {y : Nat} {p : BitVec 2} (h : y % 4 = (p.toNat + 1) % 4) : bufferRow y = 4 * (y % 16 / 4) + p.toNat := by
  have := remapRow_div_sixteen y
  have := remapRow_div_four y
  have := remapRow_mod_four y
  have := p.isLt
  unfold bufferRow
  omega

/-- The byte that drives a pixel's LED in the chain is the pixel's byte of the buffer (R186, R189). -/
theorem src_of_led (o : StreamOrder) (W P x : Nat) {y : Nat} {p : BitVec 2} (h : y % 4 = (p.toNat + 1) % 4) :
    src o P p (16 * panelOf W x y + streamSlot o (y % 16 / 4) (x % 32 / 8)) = pixelIndex W P x y := by
  rw [src_of_slot o P _ p (by omega) (by omega), pixelIndex_eq_row_column, bufferX_div_eight, bufferRow_of_group h]

theorem scanBytes_getD {s : State} {k : Nat} (h : k < s.streamLen) (d : Byte) :
    s.scanBytes.getD k d = s.byteAt (src s.cfg.streamOrder s.panels s.phase k) := by
  rw [List.getD_eq_getElem _ _ (by rwa [scanBytes_length])]
  simp [State.scanBytes]

namespace ScanDone

variable {s t : State} {rest : List (BitVec 8)} (hdone : ScanDone s t rest)
include hdone

theorem panels : t.panels = s.panels := by rw [State.panels, hdone.panelsWide, hdone.panelsHigh, State.panels]

/-- After a scan the panel lights the group of the logical rows the scan has streamed (R184, R188). -/
theorem litGroup (hcodes : cyclicMapping s.cfg = true) : t.litGroup = s.phase + 1 := by
  rw [State.litGroup, hdone.sel, hdone.cfg, State.rowselCode, applyCodes_of_cyclicMapping hcodes]

/-- The latches hold the scan's bytes in stream order (R183, R185). -/
theorem latchByte (hfits : s.panelFits) {j n : Nat} (hj : j < s.panels) (hn : n < 16) :
    t.latchByte j n = s.byteAt (src s.cfg.streamOrder s.panels s.phase (16 * j + n)) := by
  obtain ⟨-, hlatched⟩ := hdone.panel hfits
  have hlen : s.scanBytes.length = 16 * t.panels := by rw [hdone.panels, scanBytes_length, State.streamLen]
  have hlt : 16 * j + n < s.streamLen := by unfold State.streamLen; omega
  rw [latchByte_of_last (older := []) (bytes := s.scanBytes) hlatched hlen (hdone.panels ▸ hj) hn 0, scanBytes_getD hlt]

/-- The latched bit of a pixel in the scanned row group is the pixel's bit in the buffer (R189). -/
theorem latchedBit (hfits : s.panelFits) (horder : s.cfg.panelOrder = s.cfg.streamOrder) {x y : Nat}
    (hcanvas : s.onCanvas x y = true) (hgroup : y % 4 = (s.phase.toNat + 1) % 4) :
    t.latchedBit (panelOf s.panelsWide x y) (y % 16 / 4) (x % 32) = s.pixelStored x y := by
  obtain ⟨hx, hy⟩ : x < 32 * s.panelsWide ∧ y < 16 * s.panelsHigh := by simpa [State.onCanvas] using hcanvas
  have hslot := streamSlot_lt s.cfg.streamOrder (m := y % 16 / 4) (c := x % 32 / 8) (by omega) (by omega)
  have hbit : pixelBit s.panelsWide x y = 7 - x % 32 % 8 := by rw [pixelBit, bufferX_mod_eight, Nat.mod_mod_of_dvd x (by decide)]
  rw [latchedBit_of_led t _ (by omega) (by omega), hdone.cfg, horder, hdone.latchByte hfits (panelOf_lt hx hy) hslot,
    src_of_led _ _ _ _ hgroup, State.pixelStored, hbit]

/-- What a pixel's LED takes after a scan: the lit group and the lit latched bit, the output being on (R185). -/
theorem pixelLit_iff (hcodes : cyclicMapping s.cfg = true) (hlevel : s.cfg.panelLitLevel = true) (x y : Nat) :
    t.pixelLit x y = true ↔
      y % 4 = (s.phase.toNat + 1) % 4 ∧ t.latchedBit (panelOf s.panelsWide x y) (y % 16 / 4) (x % 32) = true := by
  have hgroup : t.litGroup.toNat = (s.phase.toNat + 1) % 4 := by rw [hdone.litGroup hcodes, BitVec.toNat_add]; rfl
  simp [State.pixelLit, State.ledLit, hdone.oeOn, hdone.cfg, hdone.panelsWide, hlevel, hgroup]

end ScanDone

/-- Settles O53: the latched bits are compared with the buffer only in the row group that is lit. -/
theorem scanLightsThePixelsOfItsPhase : Obligations.ScanLightsThePixelsOfItsPhase := by
  intro s rest h hready henv hc hfits horder hcodes hlevel
  obtain ⟨t, hrun, hdone⟩ := scan_runs h hready henv hc
  refine ⟨t, hrun, hdone.seq, fun x y hcanvas => ?_⟩
  rw [hdone.pixelLit_iff hcodes hlevel]
  exact and_congr_right fun hgroup => by rw [hdone.latchedBit hfits horder hcanvas hgroup]

end Sys2Proof.Machine
end

section
/-! PROOFS. The statements about 60_exceptions.md: the two refusals, and how long an engine stays failed (R201, R202, R208, R210). -/

namespace Sys2Proof.Machine

/-! ## The issue of a word, and its two refusals (R201, R202, R208) -/

/-- The engine left to run with `cmd_ready` at 1 issues the word at the port, whatever the outside does later (R110). -/
theorem step_issue_of_runs {s : State} {w : BitVec 8} {rest : List (BitVec 8)} (hruns : s.runs) (hready : s.cmdReady = true)
    (hc : s.cmds = w :: rest) : step s = issueWord w (holdWords rest s.taken) := by
  obtain ⟨hidle, hrst⟩ := (cmdReady_iff s).1 hready
  rw [step_run hruns, engineStep_idle (s := s.taken) hrst hidle, acceptWord, taken_cmds, hc]

/-- An ill-formed word is none of the six that decode (R84). -/
theorem decode_cmd_of_not_wf {w : BitVec 8} (hw : cmdWordWf w = false) : decode (.cmd w) = .error .illegalCommand := by
  cases hd : decode (.cmd w) with
  | ok i =>
    have hwf : cmdWordWf w = true := wf_iff_decodes.2 ⟨i, hd⟩
    rw [hw] at hwf
    cases hwf
  | error e => rw [decodeCommand_error hd]

theorem issueWord_illegal {s : State} {w : BitVec 8} (hf : s.failed = false) (hw : cmdWordWf w = false) :
    issueWord w s = .next (respond .errIllegal s) := by
  simp [issueWord, hf, decode_cmd_of_not_wf hw, raiseError]

/-- `FAILED` is tested before the word is decoded (R208). -/
theorem issueWord_failed {s : State} (w : BitVec 8) (hf : s.failed = true) : issueWord w s = .next (respond .errFailed s) := by
  simp [issueWord, hf, raiseError]

/-- Settles O12: the word is issued, does not decode, and its refusal leaves `SEQ` and `rst` as they were. -/
theorem illegalWordIsRefused : Obligations.IllegalWordIsRefused := by
  intro s w rest hruns hready hc hw
  obtain ⟨hidle, hrst, hf⟩ := (ready_iff s).1 hready
  have hcmd : s.cmdReady = true := (cmdReady_iff s).2 ⟨hidle, hrst⟩
  refine ⟨?_, hcmd⟩
  rw [step_issue_of_runs hruns hcmd hc, issueWord_illegal (s := holdWords rest s.taken) hf hw]
  rfl

/-! ## No line is driven (R22, R202) -/

@[simp] theorem lines_all_get {α : Type} (v : α) (line : Line) : (Lines.all v).get line = v := by
  cases line <;> rfl

/-- An engine that does not work drives no line (R29, R35). -/
theorem pad_of_not_working {s : State} (h : Inv s) (hw : s.working = false) (line : Line) : s.pad line = none := by
  simp [State.pad, h.directions, hw]

/-! ## What writes `FAILED` (R22, R210) -/

@[simp] theorem hostWrite_failed (i : Nat) (v : Byte) (s : State) : (hostWrite i v s).failed = s.failed := by
  rw [hostWrite_eq]

theorem teardown_failed (s : State) : (teardown s).failed = s.failed := rfl

/-- A reset says anew whether the topology is valid (R231, R232). -/
theorem resetSequence_failed (w height : Nat) (s : State) : (resetSequence w height s).failed = !topologyValid w height := by
  cases hv : topologyValid w height with
  | true => rw [resetSequence_valid s hv, resetValid_eq]; rfl
  | false => rw [resetSequence_invalid s hv]; rfl

/-- Neither a micro-operation nor a command writes `FAILED`. -/
theorem engineStep_failed {s t : State} (h : engineStep s = .next t) : t.failed = s.failed := by
  rcases engineStep_cases h with ⟨rfl, -⟩ | ⟨i, -, hm, he⟩ | ⟨w, rest, hrst, hidle, -, hw⟩
  · rfl
  · exact (microStep_of_exec hm he).frame.failed
  · rcases issueWord_effects (u := holdWords rest s) hrst hidle hw with ⟨r, rfl⟩ | ⟨-, rfl | ⟨p, rfl⟩⟩
    · rfl
    · rfl
    · rfl

/-- In any state, with the invariant or without it, only a reset with a valid topology ends `FAILED` (R210). -/
theorem valid_reset_of_failed_ends {s t : State} (hf : s.failed = true) (h : step s = .next t) (hend : t.failed = false) :
    ∃ w height rest, s.env = .reset w height :: rest ∧ topologyValid w height = true := by
  have hchanged : t.failed ≠ s.taken.failed := by simp [hf, hend]
  rcases step_cases h with ⟨i, v, -, -, rfl⟩ | ⟨w, height, rest, henv, rfl⟩ | ⟨-, -, rfl⟩ | ⟨-, hrun⟩
  · exact absurd (hostWrite_failed i v s.taken) hchanged
  · rw [resetSequence_failed] at hend
    exact ⟨w, height, rest, henv, by simpa using hend⟩
  · exact absurd (teardown_failed s.taken) hchanged
  · exact absurd (engineStep_failed hrun) hchanged

/-- Settles O15: every word is refused before it is decoded, the directions follow `working`, and only a valid reset clears `FAILED`. -/
theorem failedEngineRefusesEveryWord : Obligations.FailedEngineRefusesEveryWord := by
  refine ⟨fun s w rest hruns hf hready hc => ?_, fun s line h hf => ?_, fun s t _ => valid_reset_of_failed_ends⟩
  · rw [step_issue_of_runs hruns hready hc, issueWord_failed (s := holdWords rest s.taken) w hf]
    rfl
  · exact pad_of_not_working h (by simp [State.working, hf]) line

end Sys2Proof.Machine
end

section
/-! PROOFS. The statements about 70_reset_and_hazards.md: what a reset and a held reset leave (R230 to R236), and the order of line changes the
panel relies on (R242). -/

namespace Sys2Proof.Machine

/-! ## The watch over one event of a scan (R242) -/

section Watch

variable (c : Config) (n : Nat) (w : LineWatch)

theorem watchPin_oeOff : watchPin c n (some w) (.set .oe (!c.polOeOn)) = some { w with outputOn := false } := by
  simp [watchPin]

theorem watchPin_oeOn {w : LineWatch} (hlatched : w.latched = false) :
    watchPin c n (some w) (.set .oe c.polOeOn) = some { w with outputOn := true } := by
  simp [watchPin, hlatched]

/-- A row selected starts the count of pulses. -/
theorem watchPin_rowSelect {w : LineWatch} (hoff : w.outputOn = false) (a b : Level) :
    [PinEvent.set .a a, .set .b b].foldl (watchPin c n) (some w) = some { w with pulses := some 0 } := by
  simp [watchPin, hoff]

theorem watchPin_latAssert {w : LineWatch} (hoff : w.outputOn = false) (hpulses : w.pulses = some n) :
    watchPin c n (some w) (.set .lat c.polLatActive) = some { w with latched := true, held := false } := by
  simp [watchPin, hoff, hpulses]

theorem watchPin_hold {w : LineWatch} (hlatched : w.latched = true) :
    watchPin c n (some w) .hold = some { w with held := true } :=
  if_pos hlatched

theorem watchPin_latDeassert {w : LineWatch} (hheld : w.held = true) :
    watchPin c n (some w) (.set .lat (!c.polLatActive)) = some { w with latched := false } := by
  simp [watchPin, hheld]

end Watch

/-! ## The watch and the state (R242) -/

/-- What the watch keeps agrees with the lines and the position: the clauses of `OrderInv` about them. -/
structure LineWatch.Agrees (w : LineWatch) (s : State) : Prop where
  output : w.outputOn = s.oeOn
  latch : w.latched = s.latAsserted
  sending : s.seq = .fetch ∨ s.seq = .send → w.pulses = some (8 * s.k)
  sent : s.seq = .latchhi → w.pulses = some (8 * s.streamLen)
  held : s.seq = .latchlo → w.held = true

theorem orderInv_iff (s : State) : OrderInv s ↔
    (s.working = true → ∃ w : LineWatch, watchPins s.cfg (8 * s.streamLen) s.pinTrace = some w ∧ w.Agrees s) := by
  constructor
  · intro h hw
    obtain ⟨w, htrace, houtput, hlatch, hsending, hsent, hheld⟩ := h.watched hw
    exact ⟨w, htrace, houtput, hlatch, hsending, hsent, hheld⟩
  · refine fun h => ⟨fun hw => ?_⟩
    obtain ⟨w, htrace, houtput, hlatch, hsending, hsent, hheld⟩ := h hw
    exact ⟨w, htrace, houtput, hlatch, hsending, hsent, hheld⟩

/-- What a micro-operation records keeps the order, because its position says of the output, the latch and the pulses what R242 asks. -/
theorem MicroStep.keeps_watch {s t : State} (hm : MicroStep s t) (h : Inv s) {w : LineWatch} (hw : w.Agrees s) :
    ∃ pins w', t.pinTrace = s.pinTrace ++ pins ∧ pins.foldl (watchPin s.cfg (8 * s.streamLen)) (some w) = some w' ∧ w'.Agrees t := by
  have hlatched : w.latched = s.seq.latching := hw.latch.trans (h.latch (working_of_busy h hm.busy))
  have hoff : s.seq.dark = true → w.outputOn = false := fun hdark => hw.output.trans (h.dark hdark)
  cases hm with
  | oeoff =>
    refine ⟨[.set .oe (!s.cfg.polOeOn)], _, rfl, watchPin_oeOff s.cfg (8 * s.streamLen) w, ?_⟩
    constructor <;> simp [hw.latch]
  | rowsel hseq =>
    rw [hseq] at hoff
    refine ⟨[.set .a (s.rowselCode.getLsbD 0), .set .b (s.rowselCode.getLsbD 1)], _, by simp,
      watchPin_rowSelect s.cfg _ (hoff rfl) _ _, ?_⟩
    constructor <;> simp [hw.output, hw.latch]
  | fetch hseq =>
    refine ⟨[], w, by simp, rfl, ?_⟩
    constructor <;> simp [hw.output, hw.latch, hw.sending (.inl hseq)]
  | send hseq =>
    rw [hseq] at hoff hlatched
    refine ⟨serialEvents s.cfg s.sr, _, by simp, watchPins_serialEvents s.cfg _ s.sr (hoff rfl) hlatched, ?_⟩
    have hpulses : w.pulses.map (· + 8) = some (8 * (s.k + 1)) := by rw [hw.sending (.inr hseq)]; rfl
    constructor
    case sent =>
      have hlt := h.counting (.inr hseq)
      have hlast : s.streamLen ≤ s.k + 1 → s.k + 1 = s.streamLen := by omega
      simpa [hpulses] using hlast
    all_goals simp [hw.output, hw.latch, hpulses, ite_eq_iff]
  | latchhi hseq =>
    rw [hseq] at hoff
    refine ⟨[.set .lat s.cfg.polLatActive], _, rfl, watchPin_latAssert s.cfg _ (hoff rfl) (hw.sent hseq), ?_⟩
    constructor <;> simp [hw.output]
  | hold hseq =>
    rw [hseq] at hlatched
    refine ⟨[.hold], _, rfl, watchPin_hold s.cfg (8 * s.streamLen) hlatched, ?_⟩
    constructor <;> simp [hw.output, hw.latch]
  | latchlo hseq =>
    refine ⟨[.set .lat (!s.cfg.polLatActive)], _, rfl, watchPin_latDeassert s.cfg _ (hw.held hseq), ?_⟩
    constructor <;> simp [hw.output]
  | oeon hseq =>
    rw [hseq] at hlatched
    refine ⟨[.set .oe s.cfg.polOeOn], _, rfl, watchPin_oeOn s.cfg (8 * s.streamLen) hlatched, ?_⟩
    constructor <;> simp [hw.latch]

theorem MicroStep.streamLen {s t : State} (hm : MicroStep s t) : t.streamLen = s.streamLen := by
  simp [State.streamLen, State.panels, hm.frame.panelsWide, hm.frame.panelsHigh]

theorem orderInv_microStep {s t : State} (h : Inv s) (ho : OrderInv s) (hm : MicroStep s t) : OrderInv t := by
  refine (orderInv_iff t).2 fun _ => ?_
  obtain ⟨w, htrace, hw⟩ := (orderInv_iff s).1 ho (working_of_busy h hm.busy)
  obtain ⟨pins, w', hpins, hfold, hw'⟩ := hm.keeps_watch h hw
  exact ⟨w', by rw [hpins, watchPins_append, hm.frame.cfg, hm.streamLen, htrace, hfold], hw'⟩

/-! ## The order of line changes, kept by every step (R242) -/

theorem orderInv_of_not_working {s : State} (hw : s.working = false) : OrderInv s :=
  ⟨fun hworking => by rw [hw] at hworking; cases hworking⟩

/-- After a reset that leaves a working engine the watch is at its start: the output is off and the latch deasserted (R231). -/
theorem orderInv_resetSequence (width height : Nat) (s : State) : OrderInv (resetSequence width height s) := by
  cases hv : topologyValid width height with
  | true =>
    rw [resetSequence_valid s hv, resetValid_eq]
    refine (orderInv_iff _).2 fun _ => ⟨.start, watchPins_resetPinTrace s.cfg _, ?_⟩
    constructor <;> simp [LineWatch.start, State.oeOn, State.latAsserted, Lines.resetLevels, resetCommon]
  | false =>
    rw [resetSequence_invalid s hv]
    exact orderInv_of_not_working rfl

theorem orderInv_hostWrite {s : State} (h : OrderInv s) (i : Nat) (v : Byte) : OrderInv (hostWrite i v s) := by
  rw [hostWrite_eq]
  exact ⟨h.watched⟩

/-- An accepted `SCAN` changes no line, and its first position asks nothing of the pulses or the hold (R111). -/
theorem orderInv_scan {s : State} (h : OrderInv s) (words : List (BitVec 8)) : OrderInv (goTo .oeoff (holdWords words s)) := by
  refine (orderInv_iff _).2 fun hworking => ?_
  obtain ⟨w, htrace, hw⟩ := (orderInv_iff s).1 h hworking
  exact ⟨w, htrace, hw.output, hw.latch, by simp, by simp, by simp⟩

/-- Settles O38: over everything a step can leave, the micro-operation of a scan being the case that changes a watched line. -/
theorem everyStepKeepsTheLineOrder : Obligations.EveryStepKeepsTheLineOrder := by
  intro s t hs ho h
  have hs := inv_taken hs
  have ho := orderInv_taken ho
  rcases step_effects h with rfl | ⟨i, v, rfl⟩ | ⟨w, height, rfl⟩ | rfl | ⟨i, -, hi, he⟩ |
    ⟨words, -, -, ⟨r, rfl⟩ | ⟨-, rfl | ⟨p, rfl⟩⟩⟩
  · exact ho
  · exact orderInv_hostWrite ho i v
  · exact orderInv_resetSequence w height _
  · exact orderInv_of_not_working (teardown_working _)
  · exact orderInv_microStep hs ho (microStep_of_exec hi he)
  · exact ⟨ho.watched⟩
  · exact orderInv_scan ho words
  · exact ⟨ho.watched⟩

/-! ## The reset sequence (R230 to R232) -/

theorem step_reset {s : State} {width height : Nat} {rest : List EnvAction} (h : s.env = .reset width height :: rest) :
    step s = .next (resetSequence width height { s with env := rest }) := by
  rw [step, h]
  rfl

theorem topologyValid_iff (width height : Nat) : topologyValid width height = true ↔ 1 ≤ width ∧ 1 ≤ height := by
  simp [topologyValid]

/-- Settles O32: the reset sequence is one record update for a valid topology and another for an invalid one. -/
theorem resetSequenceLoadsTheState : Obligations.ResetSequenceLoadsTheState := by
  intro s width height rest henv
  refine ⟨_, step_reset henv, ?_⟩
  cases hv : topologyValid width height with
  | true =>
    have hdims := (topologyValid_iff width height).1 hv
    rw [resetSequence_valid _ hv, resetValid_eq]
    exact ⟨rfl, rfl, rfl, rfl, rfl, rfl, rfl, rfl,
      fun _ => ⟨rfl, rfl, lines_all_get _, rfl, rfl, rfl, rfl, rfl, rfl, rfl⟩, fun hnone => by omega,
      rfl, rfl, rfl, rfl, fun _ => rfl⟩
  | false =>
    have hdims : ¬(1 ≤ width ∧ 1 ≤ height) := by simp [← topologyValid_iff, hv]
    rw [resetSequence_invalid _ hv]
    exact ⟨rfl, rfl, rfl, rfl, rfl, rfl, rfl, rfl,
      fun hsome => absurd hsome hdims, fun _ => ⟨rfl, rfl, lines_all_get _, rfl⟩,
      rfl, rfl, rfl, rfl, fun _ => rfl⟩

/-! ## A held reset (R233) -/

theorem step_holdReset {s : State} {rest : List EnvAction} (h : s.env = .holdReset :: rest) :
    step s = .next (teardown { s with env := rest }) := by
  rw [step, h]
  rfl

/-- No line is driven under a held reset (R35). -/
theorem teardown_pad (s : State) (line : Line) : (teardown s).pad line = none := by
  simp [teardown, State.pad]

theorem teardown_cmdReady (s : State) : (teardown s).cmdReady = false := by
  simp [teardown, State.cmdReady]

theorem hostWrite_rst (i : Nat) (v : Byte) (s : State) : (hostWrite i v s).rst = s.rst := by
  rw [hostWrite_eq]

/-- Neither a write, nor holding the reset on, nor the engine ends a held reset. -/
theorem reset_of_rst_ends {s t : State} (hrst : s.rst = true) (h : step s = .next t) (hend : t.rst = false) :
    ∃ width height rest, s.env = .reset width height :: rest := by
  have hchanged : t.rst ≠ s.taken.rst := by simp [hrst, hend]
  rcases step_cases h with ⟨i, v, -, -, rfl⟩ | ⟨width, height, rest, henv, -⟩ | ⟨-, -, rfl⟩ | ⟨-, hrun⟩
  · exact absurd (hostWrite_rst i v s.taken) hchanged
  · exact ⟨width, height, rest, henv⟩
  · cases hend
  · rw [engineStep_rst (s := s.taken) hrst] at hrun
    obtain rfl := Host.Outcome.next.inj hrun
    exact absurd rfl hchanged

/-- Settles O34: a held reset is one record update, and under it the engine's step is the identity. -/
theorem heldResetDrivesNothing : Obligations.HeldResetDrivesNothing := by
  refine ⟨fun s rest henv => ?_, fun s hruns hrst => ?_, fun s t => reset_of_rst_ends⟩
  · exact ⟨_, step_holdReset henv, rfl, teardown_pad _, teardown_cmdReady _, rfl, rfl⟩
  · rw [step_run hruns, engineStep_rst (s := s.taken) hrst]

end Sys2Proof.Machine
end
